-- ==== Sys2Proof/Word.lean ====
section
/-! DEFINITION. The words, levels and small enumerations every other file speaks of. -/

namespace Sys2Proof

/-- One byte of a table, of CMDBUF or of a command header. -/
abbrev Byte := BitVec 8

/-- A 16-bit register or queue word (00_scope.md R6: TXW, QW and TW are 16). -/
abbrev Half := BitVec 16

/-- A level of the line: `true` is 1, high, the idle level; `false` is 0, low (00_scope.md R11). -/
abbrev Level := Bool

/-- The data width `W`, 8 or 9, fixed at build time (00_scope.md R2, R6). -/
inductive DataWidth where
  | eight
  | nine
deriving DecidableEq, Repr, Inhabited

/-- `W` as a number. -/
def DataWidth.bits : DataWidth → Nat
  | .eight => 8
  | .nine => 9

/-- The two modes, which are also the two rates: RATE1 has the numbering of MODE
(10_state.md R21, 30_encoding.md R114). -/
inductive Mode where
  | handshake
  | operating
deriving DecidableEq, Repr, Inhabited

end Sys2Proof
end

