-- ==== Sys2Proof/Config.lean ====
section
/-! DEFINITION. The build configuration (00_scope.md R6), the bytes the spec fixes, and the free values. -/

namespace Sys2Proof

/-- Everything 00_scope.md R6 leaves OPEN, with the read-only tables of 10_state.md R49.
`N_FRAME`, `P_OP`, the table lengths and the 16-bit widths are fixed by it. -/
structure Config where
  /-- `W`. -/
  width : DataWidth
  /-- `P_HS`, the bit period at the handshake rate in CLK cycles. -/
  pHs : Nat
  /-- `RATE_MULT`. -/
  rateMult : Nat
  /-- `TURN_HS`. -/
  turnHs : Nat
  /-- `TURN_OP`. -/
  turnOp : Nat
  /-- `QCAP`. -/
  qcap : Nat
  /-- `ATR[0..15]`. -/
  atr : List Byte
  /-- `SERIAL_TABLE`, of length `SERIAL_LEN`. -/
  serialTable : List Byte
  /-- `MSG_TABLE`, of length `MSG_LEN`. -/
  msgTable : List Byte
  /-- `MBOX_TABLE`, of length `MBOX_LEN`. -/
  mboxTable : List Byte
  /-- `INS_AUTH`. -/
  insAuth : Byte
  /-- `INS_MSG`. -/
  insMsg : Byte
  /-- `INS_MBOX`. -/
  insMbox : Byte
  /-- `INS_CW`. -/
  insCw : Byte
deriving DecidableEq, Repr

/-- `CLA`, the class byte (00_scope.md R6). -/
def cla : Byte := 0x53#8

/-- `INS_SERIAL` (00_scope.md R6). -/
def insSerial : Byte := 0x70#8

/-- `INS_SEED` (00_scope.md R6). -/
def insSeed : Byte := 0x78#8

/-- The source's example of an unknown instruction, which no OPEN instruction byte may be
(00_scope.md R6). -/
def insExampleUnknown : Byte := 0x7F#8

namespace Config

/-- `W` as a number. -/
def w (c : Config) : Nat := c.width.bits

/-- `N_FRAME = W + 3`, the samples of one received frame (00_scope.md R6). -/
def nFrame (c : Config) : Nat := c.w + 3

/-- `P_OP = P_HS div RATE_MULT` (00_scope.md R6). -/
def pOp (c : Config) : Nat := c.pHs / c.rateMult

/-- The six instruction bytes with a named action, in the order of 30_encoding.md R109. -/
def namedIns (c : Config) : List Byte :=
  [insSerial, insSeed, c.insAuth, c.insMsg, c.insMbox, c.insCw]

/-- An instruction byte has one of the six named actions (60_exceptions.md R263). -/
def named (c : Config) (ins : Byte) : Bool := c.namedIns.contains ins

/-- Every constraint of 00_scope.md R6, and 10_state.md R47's bound on the response tables.
A configuration that violates one is refused. -/
def ok (c : Config) : Bool :=
  decide (4 ≤ c.pHs ∧ c.pHs < 2 ^ 16 ∧
    2 ≤ c.rateMult ∧ c.pHs % c.rateMult = 0 ∧ 2 ≤ c.pHs / c.rateMult ∧
    c.turnHs < 2 ^ 32 ∧ c.turnOp < 2 ^ 32 ∧
    1 ≤ c.qcap ∧ c.atr.length = 16 ∧
    c.serialTable.length < 2 ^ 16 ∧ c.msgTable.length < 2 ^ 16 ∧ c.mboxTable.length < 2 ^ 16 ∧
    c.namedIns.Nodup ∧ c.named insExampleUnknown = false)

/-- The reference configuration of 00_scope.md R7, with the ATR, SERIAL_TABLE, INS_AUTH and INS_CW
of the programs of 95_test_vectors.md section 3.
DESIGN CHOICE (log 1, unsafe): INS_MSG, INS_MBOX and their tables have no value anywhere in the spec;
arbitrary ones stand here, and no statement rests on them. -/
def reference : Config where
  width := .eight
  pHs := 372
  rateMult := 4
  turnHs := 0
  turnOp := 0
  qcap := 4
  atr := [0xA0#8, 0xA1#8, 0xA2#8, 0xA3#8, 0xA4#8, 0xA5#8, 0xA6#8, 0xA7#8,
          0xA8#8, 0xA9#8, 0xAA#8, 0xAB#8, 0xAC#8, 0xAD#8, 0xAE#8, 0xAF#8]
  serialTable := [0x12#8, 0x34#8, 0x56#8, 0x78#8, 0x9A#8, 0xBC#8]
  msgTable := [0x00#8]
  mboxTable := []
  insAuth := 0x76#8
  insMsg := 0x72#8
  insMbox := 0x7A#8
  insCw := 0x74#8

end Config

/-- The agents whose turn it can be (00_scope.md R9). The peer acts through the level it gives the
clock's turn (60_exceptions.md R279). -/
inductive Agent where
  /-- The clock takes CLK_TICK with this level on `IO_IN`. -/
  | clock (ioIn : Level)
  /-- The dispatcher takes the micro-step DSTATE selects, if it is enabled. -/
  | dispatcher
  /-- The reset agent: the port RESET is asserted at this step boundary. -/
  | reset
deriving DecidableEq, Repr, Inhabited

/-- FREE VALUE (log 3, DESIGN CHOICE, safe): which agent takes the `n`-th turn that nothing has chosen,
and with which level. 00_scope.md R9 fixes no order. -/
opaque Config.freeTurn : Nat → Agent

/-- FREE VALUE (log 2): word `i` of QBUF after the `n`-th RESET, "unspecified (any value)"
(10_state.md R60, 70_reset_and_hazards.md R290); also what a QBUF index outside its range would
read (log 14). -/
opaque Config.freeQueueWord : Nat → Nat → Half

/-- FREE VALUE (log 14): the byte at an index a table does not have. 20_memory.md R70: "An index
outside the range never occurs". -/
opaque Config.freeTableByte : List Byte → Nat → Byte

end Sys2Proof
end

