-- ==== Sys2Proof/Syntax.lean ====
section
/-! DEFINITION. The instructions: one constructor per row of spec/opcode_table.json. -/

namespace Sys2Proof

/-- The wire commands (format CMD40, 30_encoding.md R107, R109) and the engine operations and
dispatcher steps (format OPSEL8, 30_encoding.md R118). -/
inductive Instr where
  -- wire commands: P1, P2 and LEN are stored and never used (44_dispatcher.md R241)
  | serial (p1 p2 len : Byte)
  | seed (p1 p2 len : Byte)
  | auth (p1 p2 len : Byte)
  | msg (p1 p2 len : Byte)
  | mbox (p1 p2 len : Byte)
  | cw (p1 p2 len : Byte)
  | unknown (ins p1 p2 len : Byte)
  -- timing and baud control
  | configure (rate : Mode)
  | clkTick (ioIn : Level)
  | delay (n : BitVec 32)
  -- transmit engine; the operand of ENCODE has W bits, see WellFormed
  | encode (v : Half)
  | send (code : Half)
  | enterTx
  | sendByte (b : Byte)
  | txTick
  -- receive engine; the operand of DECODE has W + 3 bits, see WellFormed
  | rxEdge
  | rxSample (l : Level)
  | rxFinalize
  | decode (acc : Half)
  | enterRx
  | read
  -- byte queue
  | qPut (value : Half)
  | qGetWait
  | qGetNowait
  -- dispatcher steps
  | boot
  | atrTx
  | atrDrain
  | modeSwitch
  | idle
  | header
  | dispatch
  | bodyTx
  | cwEcho
  | cwRx
  | trailerTx
  | clear
  -- reset
  | reset
deriving DecidableEq, Repr

end Sys2Proof
end

