-- ==== Sys2Proof/WellFormed.lean ====
section
/-! DEFINITION. Which instructions can be written down, and the names of the ways bytes fail to be one. -/

namespace Sys2Proof

/-- The checks of an instruction against the build configuration.
UNKNOWN is taken only when no named row matches (30_encoding.md R109); ENCODE's operand is a data
value of `W` bits (41_transmit.md R150); DECODE's is an ACC of `W + 3` bits (42_receive.md R176).
Every other operand's type is exactly its width. -/
def Instr.wf (c : Config) : Instr → Bool
  | .serial _ _ _ => true
  | .seed _ _ _ => true
  | .auth _ _ _ => true
  | .msg _ _ _ => true
  | .mbox _ _ _ => true
  | .cw _ _ _ => true
  | .unknown ins _ _ _ => !c.named ins
  | .configure _ => true
  | .clkTick _ => true
  | .delay _ => true
  | .encode v => decide (v.toNat < 2 ^ c.w)
  | .send _ => true
  | .enterTx => true
  | .sendByte _ => true
  | .txTick => true
  | .rxEdge => true
  | .rxSample _ => true
  | .rxFinalize => true
  | .decode acc => decide (acc.toNat < 2 ^ c.nFrame)
  | .enterRx => true
  | .read => true
  | .qPut _ => true
  | .qGetWait => true
  | .qGetNowait => true
  | .boot => true
  | .atrTx => true
  | .atrDrain => true
  | .modeSwitch => true
  | .idle => true
  | .header => true
  | .dispatch => true
  | .bodyTx => true
  | .cwEcho => true
  | .cwRx => true
  | .trailerTx => true
  | .clear => true
  | .reset => true

/-- Why a sequence of bytes is no instruction. -/
inductive DecodeError where
  /-- There is no byte at all. -/
  | noBytes
  /-- The operation number is none of 30_encoding.md R118. -/
  | unknownOperation (number : Byte)
  /-- The bytes end inside the header or the operand. -/
  | truncated
  /-- The operand has more bits than the spec gives it (a rate or a level other than 0 or 1, a data
  value of more than `W` bits, an ACC of more than `W + 3` bits). -/
  | operandTooWide
deriving DecidableEq, Repr

end Sys2Proof
end

