-- ==== Sys2Proof/Machine/State.lean ====
section
/-! DEFINITION. The state of the block as plain data, the labels and outcomes of a step, and the state after reset. -/

namespace Sys2Proof.Machine

/-- Line direction (10_state.md R23). -/
inductive Dir where
  | rx
  | tx
deriving DecidableEq, Repr, Inhabited

/-- RXSTATE (10_state.md R34). -/
inductive RxState where
  | waitEdge
  | sample
deriving DecidableEq, Repr, Inhabited

/-- DSTATE (10_state.md R46). The values 12 to 15 are reserved, "never entered". -/
inductive DState where
  | boot
  | atrTx
  | atrDrain
  | modeSwitch
  | idle
  | header
  | dispatch
  | bodyTx
  | cwEcho
  | cwRx
  | trailerTx
  | clear
  /-- The reserved value `12 + k`. -/
  | reserved (k : Fin 4)
deriving DecidableEq, Repr, Inhabited

/-- RDPHASE (10_state.md R48). The value 3 is reserved, "never entered". -/
inductive RdPhase where
  | start
  | delay
  | wait
  | reserved
deriving DecidableEq, Repr, Inhabited

/-- The model's own: how far a DELAY operation has come between its two micro-steps
(40_timing_baud.md R138; DEDUCED, log 12, unsafe). -/
inductive DelayPhase where
  /-- No DELAY is in progress. -/
  | start
  /-- DELAY(n) has taken its first micro-step and holds the foreground until its second. -/
  | wait (n : BitVec 32)
deriving DecidableEq, Repr, Inhabited

/-- The three error conditions (60_exceptions.md R260): labels of a step, in no state of the hardware. -/
inductive Condition where
  /-- RX_FINALIZE rejected this image of `W + 3` bits (R261). -/
  | frameError (acc : BitVec 12)
  /-- RX_FINALIZE dropped this value, the queue being full (R262). -/
  | queueOverflow (v : Half)
  /-- DISPATCH found this instruction byte, which has no named action (R263). -/
  | unknownInstruction (ins : Byte)
deriving DecidableEq, Repr

/-- What a step answers, in the notation `OP arg -> result` of 30_encoding.md R116. -/
inductive Result where
  /-- The step ran and returns nothing. -/
  | done
  /-- The micro-step is not enabled: its `wait until` is false, or it is not the one its context
  runs now (00_scope.md R11). Nothing has changed. -/
  | blocked
  /-- ENCODE's CODE16. -/
  | code (code : Half)
  /-- DECODE's pair. -/
  | decoded (valid : Bool) (v : Half)
  /-- READ's data value. -/
  | value (v : Half)
  /-- Q_PUT's `ok`. -/
  | putOk (ok : Bool)
  /-- Q_GET_WAIT's word. -/
  | word (w : Half)
  /-- Q_GET_NOWAIT's pair. -/
  | tryWord (ok : Bool) (w : Half)
deriving DecidableEq, Repr

/-- One turn of the interleaving (00_scope.md R9). -/
inductive Turn where
  /-- One of the block's agents takes its step. -/
  | agent (a : Agent)
  /-- One operation or command run by its encoding, as the executions of 30_encoding.md R116 are
  written; what follows its own bytes is ignored. -/
  | call (bytes : List Byte)
deriving DecidableEq, Repr

/-- A byte memory: a list of cells with strictly rising indices and no cell equal to what an unlisted
index reads as, which is 0 (log 22). -/
abbrev Memory := List Host.Cell

/-- The block. Fields S0 to S26 are the spec's (10_state.md R60); the last seven are the model's own. -/
structure State where
  /-- S0 MODE. -/
  mode : Mode
  /-- S1 GIE. -/
  gie : Bool
  /-- S2 DIR. -/
  dir : Dir
  /-- S3 PERIOD. -/
  period : Half
  /-- S4 TCNT. -/
  tcnt : Half
  /-- S5 DELAYCNT. -/
  delaycnt : BitVec 32
  /-- S6 TXREG. -/
  txreg : Half
  /-- S7 TX_ARMED. -/
  txArmed : Bool
  /-- S8 IO_OUT. -/
  ioOut : Level
  /-- S9 IO_PREV. -/
  ioPrev : Level
  /-- S10 RX_ARMED. -/
  rxArmed : Bool
  /-- S11 RXSTATE. -/
  rxstate : RxState
  /-- S12 RXACC, its `W + 3` bits in the low end (log 16). -/
  rxacc : BitVec 12
  /-- S13 RXCNT. -/
  rxcnt : BitVec 4
  /-- S14 CAPT. -/
  capt : Half
  /-- S15 RXCMP. -/
  rxcmp : Half
  /-- S16 TXF. -/
  txf : Bool
  /-- S17 ICF. -/
  icf : Bool
  /-- S18 RXF. -/
  rxf : Bool
  /-- S19 QBUF. -/
  qbuf : List Half
  /-- S20 QCOUNT. -/
  qcount : Nat
  /-- S21 QRD. -/
  qrd : Nat
  /-- S22 QWR. -/
  qwr : Nat
  /-- S23 CMDBUF. -/
  cmdbuf : Memory
  /-- S24 DSTATE. -/
  dstate : DState
  /-- S25 DIDX. -/
  didx : Half
  /-- S26 RDPHASE. -/
  rdphase : RdPhase
  /-- The build configuration, which no step writes (70_reset_and_hazards.md R294; log 1). -/
  cfg : Config
  /-- Progress of DELAY (log 12). -/
  delayPhase : DelayPhase
  /-- The turns already chosen, next first (log 3). -/
  agenda : List Turn
  /-- Free turns taken so far (log 3). -/
  turns : Nat
  /-- RESETs so far; selects the free contents of QBUF (log 2). -/
  resets : Nat
  /-- What the last step answered (log 7). -/
  result : Result
  /-- The condition the last step raised (log 7). -/
  raised : Option Condition
deriving DecidableEq, Repr

/-- Why the machine stops. The spec treats nothing as a fault (93_implementation_defined.md); this
one name is for its word "stuck". -/
inductive Fault where
  /-- DSTATE or RDPHASE holds a reserved value, so no dispatcher step is enabled ever again
  (93_implementation_defined.md U9). Raised by the dispatcher's turn, by READ and by the steps that
  contain READ, in states no run from reset reaches. Safe (log 13). -/
  | stuck
deriving DecidableEq, Repr

/-- Why there is no step to take. -/
inductive Refusal where
  /-- An instruction without a meaning, rejected by name in exec's arm. Safe. -/
  | notModelled (mnemonic : String)
  /-- The configuration breaks a constraint of 00_scope.md R6. Raised by every step. Safe (log 15). -/
  | badConfiguration
  /-- The turn's bytes encode no instruction. Raised by the step that fetches them. Safe (log 6). -/
  | undecodable (why : DecodeError)
deriving DecidableEq, Repr

/-- The outcome of a step of this machine. -/
abbrev StepOutcome := Host.Outcome State Fault Refusal

/-- The state after reset in a given build (10_state.md R60).
QBUF has no reset value in the spec: zeros here are a DESIGN CHOICE (log 2, unsafe). -/
def State.resetWith (c : Config) : State where
  mode := .handshake
  gie := false
  dir := .rx
  period := BitVec.ofNat 16 c.pHs
  tcnt := 0
  delaycnt := 0
  txreg := 0xFFFF#16
  txArmed := false
  ioOut := true
  ioPrev := true
  rxArmed := false
  rxstate := .waitEdge
  rxacc := 0
  rxcnt := 0
  capt := 0
  rxcmp := 0
  txf := false
  icf := false
  rxf := false
  qbuf := List.replicate c.qcap 0
  qcount := 0
  qrd := 0
  qwr := 0
  cmdbuf := []
  dstate := .boot
  didx := 0
  rdphase := .start
  cfg := c
  delayPhase := .start
  agenda := []
  turns := 0
  resets := 0
  result := .done
  raised := none

/-- The state right after reset, in the reference configuration
(DESIGN CHOICE, log 1, unsafe: the OPEN parameters have no value in the spec). -/
def State.reset : State := State.resetWith Config.reference

end Sys2Proof.Machine
end

