-- ==== Sys2Proof/Machine/Operands.lean ====
section
/-! DEFINITION. The operands assembled from bits (30_encoding.md R108): frames, data values, periods, delays, sample instants, table bytes; and the numbers of the enumerations. -/

namespace Sys2Proof.Machine

/-- `parity_8`, the fold by halves (41_transmit.md R151). -/
def parity8 (v : Byte) : Bool :=
  let x : BitVec 4 := v.extractLsb' 4 4 ^^^ v.extractLsb' 0 4
  let y : BitVec 2 := x.extractLsb' 2 2 ^^^ x.extractLsb' 0 2
  y.getLsbD 1 ^^ y.getLsbD 0

/-- `parity_W`: the 8-bit fold, XOR bit 8 when `W = 9` (41_transmit.md R151). -/
def parity {w : Nat} (v : BitVec w) : Bool := parity8 (v.setWidth 8) ^^ v.getLsbD 8

/-- `bitrev_W` (00_scope.md R11). -/
def bitrev {w : Nat} (v : BitVec w) : BitVec w := v.reverse

/-- ENCODE, a data value to its CODE16 (41_transmit.md R150, 30_encoding.md R101). -/
def frameEncode {w : Nat} (v : BitVec w) : Half :=
  let raw : Half := (BitVec.cons (parity v) (bitrev v)).setWidth 16
  (~~~raw) <<< 1

/-- The data value an ACC of `w + 3` bits holds, valid or not (42_receive.md R176). -/
def accValue {w : Nat} (acc : BitVec (w + 3)) : BitVec w := bitrev (~~~(acc.extractLsb' 1 w))

/-- The validity test of DECODE: START 0, STOP 1, parity matching (42_receive.md R176). -/
def accValid {w : Nat} (acc : BitVec (w + 3)) : Bool :=
  !acc.getLsbD 0 && acc.getLsbD (w + 2) && ((!acc.getLsbD (w + 1)) == parity (accValue acc))

/-- DECODE, an ACC to `(valid, v)` (42_receive.md R176). -/
def frameDecode {w : Nat} (acc : BitVec (w + 3)) : Bool × BitVec w := (accValid acc, accValue acc)

/-- A queue word masked to `W` bits (42_receive.md R181). -/
def maskData (c : Config) (x : Half) : Half := (x.setWidth c.w).setWidth 16

/-- `period(rate)` (40_timing_baud.md R130). -/
def periodOf (c : Config) : Mode → Half
  | .handshake => BitVec.ofNat 16 c.pHs
  | .operating => BitVec.ofNat 16 c.pOp

/-- `turn(mode)` (40_timing_baud.md R137). -/
def turnOf (c : Config) : Mode → BitVec 32
  | .handshake => BitVec.ofNat 32 c.turnHs
  | .operating => BitVec.ofNat 32 c.turnOp

/-- The sample instant `(CAPT + PERIOD div 2) mod PERIOD`, formed at full precision
(42_receive.md R171, 40_timing_baud.md R139). -/
def sampleInstant (capt period : Half) : Half :=
  BitVec.ofNat 16 ((capt.toNat + period.toNat / 2) % period.toNat)

/-- `SEED_TABLE` (10_state.md R49). -/
def seedTable : List Byte := List.replicate 8 0xFF#8

/-- `TRAILER` (10_state.md R49). -/
def trailer : List Byte := [0x90#8, 0x00#8]

/-- `CMDBUF_LEN` (00_scope.md R6). -/
def cmdbufLen : Nat := 32

/-- `CW_PAYLOAD_LEN` (00_scope.md R6). -/
def cwPayloadLen : Nat := 32

/-- `resp(ins)`: the response table of an instruction byte, empty where there is none
(44_dispatcher.md R228). -/
def resp (c : Config) (ins : Byte) : List Byte :=
  if ins = insSerial then c.serialTable
  else if ins = insSeed then seedTable
  else if ins = c.insMsg then c.msgTable
  else if ins = c.insMbox then c.mboxTable
  else []

/-- `TABLE[i]`. An index the table does not have never occurs (20_memory.md R70); a free value stands
there (log 14). -/
def tableByte (t : List Byte) (i : Nat) : Byte := t[i]?.getD (Config.freeTableByte t i)

/-- MODE and RATE1 as numbers (10_state.md R21, 30_encoding.md R114). -/
def modeNumber : Mode → BitVec 1
  | .handshake => 0
  | .operating => 1

/-- DIR as a number (10_state.md R23). -/
def dirNumber : Dir → BitVec 1
  | .rx => 0
  | .tx => 1

/-- RXSTATE as a number (10_state.md R34). -/
def rxStateNumber : RxState → BitVec 1
  | .waitEdge => 0
  | .sample => 1

/-- DSTATE as a number (10_state.md R46). -/
def dstateNumber : DState → BitVec 4
  | .boot => 0
  | .atrTx => 1
  | .atrDrain => 2
  | .modeSwitch => 3
  | .idle => 4
  | .header => 5
  | .dispatch => 6
  | .bodyTx => 7
  | .cwEcho => 8
  | .cwRx => 9
  | .trailerTx => 10
  | .clear => 11
  | .reserved k => BitVec.ofNat 4 (12 + k.val)

/-- The DSTATE a number stands for (10_state.md R46). -/
def dstateOf (n : BitVec 4) : DState :=
  match n.toNat with
  | 0 => .boot
  | 1 => .atrTx
  | 2 => .atrDrain
  | 3 => .modeSwitch
  | 4 => .idle
  | 5 => .header
  | 6 => .dispatch
  | 7 => .bodyTx
  | 8 => .cwEcho
  | 9 => .cwRx
  | 10 => .trailerTx
  | 11 => .clear
  | 12 => .reserved 0
  | 13 => .reserved 1
  | 14 => .reserved 2
  | _ => .reserved 3

/-- RDPHASE as a number (10_state.md R48). -/
def rdPhaseNumber : RdPhase → BitVec 2
  | .start => 0
  | .delay => 1
  | .wait => 2
  | .reserved => 3

end Sys2Proof.Machine
end

