-- ==== Sys2Proof/Machine/Flags.lean ====
section
/-! DEFINITION. The derived signals, the arming and the event conditions of the three sources, and the enabling conditions of the handlers. -/

namespace Sys2Proof.Machine

namespace State

/-- `TX_BUSY = TX_ARMED` (10_state.md R29). -/
def txBusy (s : State) : Bool := s.txArmed

/-- `IO_OE`, the output enable port (10_state.md R31). -/
def ioOe (s : State) : Bool := decide (s.dir = .tx)

/-- `Q_FULL` (10_state.md R44). -/
def qFull (s : State) : Bool := decide (s.qcount = s.cfg.qcap)

/-- `Q_EMPTY` (10_state.md R44). -/
def qEmpty (s : State) : Bool := decide (s.qcount = 0)

/-- RXACC at its own width (10_state.md R35). -/
def acc (s : State) : BitVec (s.cfg.w + 3) := s.rxacc.setWidth (s.cfg.w + 3)

/-- The receive compare source is armed (60_exceptions.md R265). -/
def sampleArmed (s : State) : Bool := s.rxArmed && decide (s.rxstate = .sample)

/-- The edge capture source is armed (60_exceptions.md R265). -/
def edgeArmed (s : State) : Bool := s.rxArmed && decide (s.rxstate = .waitEdge)

/-- The receive compare matches (40_timing_baud.md R133, R134). -/
def sampleMatch (s : State) : Bool := s.sampleArmed && decide (s.tcnt = s.rxcmp)

/-- The line is seen to fall (40_timing_baud.md R133, R134). -/
def edgeSeen (s : State) (ioIn : Level) : Bool := s.edgeArmed && s.ioPrev && !ioIn

/-- TCNT stands at the end of the bit period (40_timing_baud.md R133). -/
def periodEnd (s : State) : Bool := decide (s.tcnt = s.period - 1)

/-- The transmit compare matches (40_timing_baud.md R133, R134). -/
def transmitMatch (s : State) : Bool := s.txArmed && s.periodEnd

/-- RX_SAMPLE may run: its source is armed and events are enabled
(10_state.md R22, 40_timing_baud.md R140; log 9). -/
def sampleEnabled (s : State) : Bool := s.gie && s.sampleArmed

/-- RX_EDGE may run (10_state.md R22, 40_timing_baud.md R140; log 9). -/
def edgeEnabled (s : State) : Bool := s.gie && s.edgeArmed

/-- TX_TICK may run (10_state.md R22, 40_timing_baud.md R140; log 9). -/
def tickEnabled (s : State) : Bool := s.gie && s.txArmed

end State

end Sys2Proof.Machine
end

