-- ==== Sys2Proof/Machine/Ops.lean ====
section
/-! DEFINITION. The named operations every meaning is written over: CMDBUF, labels, the queue, the transmit and receive engines, the waits of SEND and READ, and reset. -/

namespace Sys2Proof.Machine

/-- What the byte at an index of a byte memory is; an unlisted index reads 0 (log 22). -/
def Memory.read : Memory → Nat → Byte
  | [], _ => 0
  | (b, x) :: m, a => if b = a then x else Memory.read m a

/-- Put a cell at the head unless it equals what an unlisted index reads as. -/
def Memory.push (a : Nat) (v : Byte) (m : Memory) : Memory := if v = 0 then m else (a, v) :: m

/-- Replace the byte at an index, keeping the canonical form. -/
def Memory.write : Memory → Nat → Byte → Memory
  | [], a, v => Memory.push a v []
  | (b, x) :: m, a, v =>
    if a < b then Memory.push a v ((b, x) :: m)
    else if a = b then Memory.push a v m
    else (b, x) :: Memory.write m a v

/-- `CMDBUF[i] <- v`: "A CMDBUF write at an index above 31 is not performed" (20_memory.md R77). -/
def Memory.store (m : Memory) (i : Nat) (v : Byte) : Memory :=
  if i < cmdbufLen then Memory.write m i v else m

/-- The canonical form: indices strictly rising and below 32, no listed zero. -/
def Memory.wf (m : Memory) : Bool :=
  decide (m.Pairwise (fun x y => x.1 < y.1)) && m.all (fun x => decide (x.1 < cmdbufLen) && decide (x.2 ≠ 0))

namespace State

/-! ### Labels -/

/-- The labels of a step that runs. -/
def start (s : State) : State := { s with result := .done, raised := none }

/-- The micro-step is not enabled: nothing changes but the labels (00_scope.md R11; log 5). -/
def blocked (s : State) : State := { s with result := .blocked, raised := none }

/-- Label the step with its answer. -/
def answer (r : Result) (s : State) : State := { s with result := r }

/-- `raise <Condition>(info)`: "It changes no state by itself" (00_scope.md R11). -/
def raise (c : Condition) (s : State) : State := { s with raised := some c }

/-! ### Timer -/

/-- CONFIGURE. GIE is cleared at its beginning and set at its end, all in one atomic step
(40_timing_baud.md R131). -/
def configure (rate : Mode) (s : State) : State :=
  { s with
    gie := true, period := periodOf s.cfg rate, tcnt := 0
    txf := false, icf := false, rxf := false, txreg := 0xFFFF#16 }

/-! ### Byte queue -/

/-- Q_PUT: whether there was room, and the state after (43_byte_queue.md R201). -/
def qPut (v : Half) (s : State) : Bool × State :=
  if s.qFull then (false, s)
  else (true, { s with
    qbuf := s.qbuf.set s.qwr v, qwr := (s.qwr + 1) % s.cfg.qcap, qcount := s.qcount + 1 })

/-- `QBUF[QRD]`. A cursor is always in range (20_memory.md R77); a free value stands outside it (log 14). -/
def qHead (s : State) : Half := s.qbuf[s.qrd]?.getD (Config.freeQueueWord s.resets s.qrd)

/-- The taking of the word at the read cursor, common to both gets; used only when `QCOUNT > 0`
(43_byte_queue.md R202, R203). -/
def qTake (s : State) : State :=
  { s with qrd := (s.qrd + 1) % s.cfg.qcap, qcount := s.qcount - 1 }

/-! ### Transmit engine -/

/-- ENTER_TX (41_transmit.md R153). -/
def enterTx (s : State) : State :=
  { s with
    rxArmed := false, rxstate := .waitEdge, rxacc := 0, rxcnt := 0
    icf := false, rxf := false, ioOut := true, dir := .tx }

/-- Take the line if it is not taken (41_transmit.md R152). -/
def takeLine (s : State) : State := if s.dir = .rx then s.enterTx else s

/-- SEND's step after its wait: take the line, load the frame, arm the compare (41_transmit.md R152). -/
def loadFrame (code : Half) (s : State) : State :=
  { s.takeLine with txreg := code, txArmed := true }

/-- The CODE16 of a byte, zero-extended to `W` bits (41_transmit.md R154). -/
def byteCode (s : State) (b : Byte) : Half := frameEncode (b.setWidth s.cfg.w)

/-- A step that is blocked while SEND is, and then loads the frame and goes on in the same micro-step
(44_dispatcher.md, before R220). -/
def afterSend (code : Half) (go : State → State) (s : State) : StepOutcome :=
  if s.txBusy then .next s.blocked else .next (go (s.start.loadFrame code))

/-- TX_TICK: output bit 0; at the terminal value disarm, else shift in a one (41_transmit.md R155). -/
def tick (s : State) : State :=
  if s.txreg = 0xFFFF#16 then { s with ioOut := s.txreg.getLsbD 0, txArmed := false }
  else { s with ioOut := s.txreg.getLsbD 0, txreg := (s.txreg >>> 1) ||| 0x8000#16 }

/-! ### Receive engine -/

/-- RX_EDGE (42_receive.md R171). -/
def edge (s : State) : State :=
  { s with rxcmp := sampleInstant s.capt s.period, rxacc := 0, rxcnt := 0, rxstate := .sample }

/-- "In either case, reset the accumulator and return to WAIT_EDGE" (42_receive.md R175). -/
def endFrame (s : State) : State := { s with rxacc := 0, rxcnt := 0, rxstate := .waitEdge }

/-- Put a decoded value in the queue or raise QueueOverflow (42_receive.md R175). -/
def deliver (v : Half) (s : State) : State :=
  if (s.qPut v).1 then (s.qPut v).2 else s.raise (.queueOverflow v)

/-- RX_FINALIZE (42_receive.md R175). -/
def finalize (s : State) : State :=
  if accValid s.acc then (s.deliver ((accValue s.acc).setWidth 16)).endFrame
  else (s.raise (.frameError (s.acc.setWidth 12))).endFrame

/-- The shift of RX_SAMPLE at width `W + 3`: the sample enters at the top (42_receive.md R173). -/
def shiftIn (l : Level) (s : State) : State :=
  { s with
    rxacc := ((s.acc >>> 1) ||| ((BitVec.ofBool l).setWidth (s.cfg.w + 3) <<< (s.cfg.w + 2))).setWidth 12
    rxcnt := s.rxcnt + 1 }

/-- RX_SAMPLE (42_receive.md R173). -/
def sample (l : Level) (s : State) : State :=
  if (s.shiftIn l).rxcnt.toNat = s.cfg.nFrame then (s.shiftIn l).finalize else s.shiftIn l

/-- ENTER_RX (42_receive.md R180). -/
def enterRx (s : State) : State :=
  { s with
    dir := .rx, rxstate := .waitEdge, rxacc := 0, rxcnt := 0
    icf := false, rxf := false, rxArmed := true }

end State

/-- What one micro-step of READ does. -/
inductive ReadStep where
  /-- Not enabled. -/
  | waiting
  /-- It went on to the next phase. -/
  | moved (s : State)
  /-- It returned this data value. -/
  | value (v : Half) (s : State)
  /-- RDPHASE holds the reserved value. -/
  | stuck

namespace State

/-- READ's micro-step, by RDPHASE (42_receive.md R181). ENTER_RX runs "only when TX_BUSY = 0"
(42_receive.md R180; log 10). -/
def readStep (s : State) : ReadStep :=
  match s.rdphase with
  | .start =>
    if s.rxArmed then .moved { s with rdphase := .wait }
    else if s.txBusy then .waiting
    else .moved { s with delaycnt := turnOf s.cfg s.mode, rdphase := .delay }
  | .delay =>
    if s.delaycnt = 0 ∧ s.txBusy = false then .moved { s.enterRx with rdphase := .wait } else .waiting
  | .wait =>
    if s.qEmpty then .waiting
    else .value (maskData s.cfg s.qHead) { s.qTake with rdphase := .start }
  | .reserved => .stuck

/-- A step that is blocked while READ is; the statements after READ run in the micro-step in which it
returns (44_dispatcher.md, before R220). -/
def afterRead (go : Half → State → State) (s : State) : StepOutcome :=
  match s.start.readStep with
  | .waiting => .next s.blocked
  | .moved s' => .next s'
  | .value v s' => .next (go v s')
  | .stuck => .fault .stuck

/-! ### Dispatcher -/

/-- A dispatcher step runs in its DSTATE only; in any other it is not enabled (44_dispatcher.md). -/
def inState (d : DState) (step : State → StepOutcome) (s : State) : StepOutcome :=
  if s.dstate = d then step s else .next s.blocked

/-- DISPATCH's selection of the action of an instruction byte (44_dispatcher.md R227, R228; the
condition is 60_exceptions.md R263). -/
def selectAction (ins : Byte) (s : State) : State :=
  { s with
    didx := 0
    dstate := if ins = s.cfg.insCw then .cwEcho
              else if resp s.cfg ins = [] then .trailerTx else .bodyTx
    raised := if s.cfg.named ins then s.raised else some (.unknownInstruction ins) }

/-- A wire command runs when the dispatcher is about to act on its header: DSTATE is DISPATCH and
CMDBUF[1] is its instruction byte, by which alone it is selected (30_encoding.md R109; log 8). -/
def runCommand (ins : Byte) (s : State) : StepOutcome :=
  if s.dstate = .dispatch ∧ Memory.read s.cmdbuf 1 = ins then .next (s.start.selectAction ins)
  else .next s.blocked

/-! ### Reset -/

/-- RESET: every element S0 to S26 takes its reset value, QBUF any value
(70_reset_and_hazards.md R290, 10_state.md R60). The configuration and the turns still to come are no
state of the block; a DELAY in progress ends (log 17). -/
def resetRegisters (s : State) : State :=
  { State.resetWith s.cfg with
    qbuf := (List.range s.cfg.qcap).map (Config.freeQueueWord s.resets)
    agenda := s.agenda, turns := s.turns, resets := s.resets + 1 }

end State

end Sys2Proof.Machine
end

