-- ==== Sys2Proof/Machine/Commands.lean ====
section
/-! DEFINITION. The meanings of the wire commands (30_encoding.md R109, 44_dispatcher.md R231 to R238).

A command's own step is the one in which the dispatcher acts on its captured header; the bytes of its
response are then sent by BODY_TX, CW_ECHO, CW_RX and TRAILER_TX, with any clock turns in between
(log 8). P1, P2 and LEN are "stored and never read" (44_dispatcher.md R241). -/

namespace Sys2Proof.Machine

/-- SERIAL (44_dispatcher.md R231). -/
def execSerial (_p1 _p2 _len : Byte) (s : State) : StepOutcome := s.runCommand insSerial

/-- SEED (44_dispatcher.md R232). -/
def execSeed (_p1 _p2 _len : Byte) (s : State) : StepOutcome := s.runCommand insSeed

/-- AUTH (44_dispatcher.md R233). -/
def execAuth (_p1 _p2 _len : Byte) (s : State) : StepOutcome := s.runCommand s.cfg.insAuth

/-- MSG (44_dispatcher.md R234). -/
def execMsg (_p1 _p2 _len : Byte) (s : State) : StepOutcome := s.runCommand s.cfg.insMsg

/-- MBOX (44_dispatcher.md R235). -/
def execMbox (_p1 _p2 _len : Byte) (s : State) : StepOutcome := s.runCommand s.cfg.insMbox

/-- CW (44_dispatcher.md R236, R237). -/
def execCw (_p1 _p2 _len : Byte) (s : State) : StepOutcome := s.runCommand s.cfg.insCw

/-- UNKNOWN (44_dispatcher.md R238): taken when INS has no named action, never otherwise. -/
def execUnknown (ins _p1 _p2 _len : Byte) (s : State) : StepOutcome :=
  if s.cfg.named ins then .next s.blocked else s.runCommand ins

end Sys2Proof.Machine
end

