-- ==== Sys2Proof/Machine/Dispatcher.lean ====
section
/-! DEFINITION. The meanings of the dispatcher steps (44_dispatcher.md R221 to R240). -/

namespace Sys2Proof.Machine

/-- The byte the dispatcher takes from a data value, bits 7 to 0 (44_dispatcher.md R242). -/
def lowByte (v : Half) : Byte := v.setWidth 8

/-- BOOT (44_dispatcher.md R221). -/
def execBoot (s : State) : StepOutcome :=
  s.inState .boot fun s => .next { s.start.configure .handshake with didx := 0, dstate := .atrTx }

/-- ATR_TX (44_dispatcher.md R222). -/
def execAtrTx (s : State) : StepOutcome :=
  s.inState .atrTx fun s =>
    s.afterSend (s.byteCode (tableByte s.cfg.atr s.didx.toNat)) fun t =>
      { t with didx := t.didx + 1, dstate := if t.didx + 1 = 16 then .atrDrain else t.dstate }

/-- ATR_DRAIN (44_dispatcher.md R223). -/
def execAtrDrain (s : State) : StepOutcome :=
  s.inState .atrDrain fun s =>
    if s.txBusy then .next s.blocked else .next { s.start with dstate := .modeSwitch }

/-- MODE_SWITCH (44_dispatcher.md R224). -/
def execModeSwitch (s : State) : StepOutcome :=
  s.inState .modeSwitch fun s =>
    .next { State.configure .operating { s.start with mode := .operating } with dstate := .idle }

/-- IDLE (44_dispatcher.md R225). -/
def execIdle (s : State) : StepOutcome :=
  s.inState .idle fun s => s.afterRead fun v t =>
    if lowByte v = cla then
      { t with cmdbuf := Memory.store t.cmdbuf 0 (lowByte v), didx := 1, dstate := .header }
    else t

/-- HEADER (44_dispatcher.md R226). -/
def execHeader (s : State) : StepOutcome :=
  s.inState .header fun s => s.afterRead fun v t =>
    { t with
      cmdbuf := Memory.store t.cmdbuf t.didx.toNat (lowByte v), didx := t.didx + 1
      dstate := if t.didx + 1 = 5 then .dispatch else t.dstate }

/-- DISPATCH (44_dispatcher.md R227). -/
def execDispatch (s : State) : StepOutcome :=
  s.inState .dispatch fun s => .next (s.start.selectAction (Memory.read s.cmdbuf 1))

/-- BODY_TX (44_dispatcher.md R230). -/
def execBodyTx (s : State) : StepOutcome :=
  s.inState .bodyTx fun s =>
    let table := resp s.cfg (Memory.read s.cmdbuf 1)
    s.afterSend (s.byteCode (tableByte table s.didx.toNat)) fun t =>
      if (t.didx + 1).toNat = table.length then { t with didx := 0, dstate := .trailerTx }
      else { t with didx := t.didx + 1 }

/-- CW_ECHO (44_dispatcher.md R236). -/
def execCwEcho (s : State) : StepOutcome :=
  s.inState .cwEcho fun s =>
    s.afterSend (s.byteCode (Memory.read s.cmdbuf 1)) fun t => { t with didx := 0, dstate := .cwRx }

/-- CW_RX (44_dispatcher.md R237): payload bytes 27 to 31 fall outside CMDBUF and are not stored. -/
def execCwRx (s : State) : StepOutcome :=
  s.inState .cwRx fun s => s.afterRead fun v t =>
    let stored := { t with cmdbuf := Memory.store t.cmdbuf (5 + t.didx.toNat) (lowByte v) }
    if (t.didx + 1).toNat = cwPayloadLen then { stored with didx := 0, dstate := .trailerTx }
    else { stored with didx := t.didx + 1 }

/-- TRAILER_TX (44_dispatcher.md R239). -/
def execTrailerTx (s : State) : StepOutcome :=
  s.inState .trailerTx fun s =>
    s.afterSend (s.byteCode (tableByte trailer s.didx.toNat)) fun t =>
      { t with didx := t.didx + 1, dstate := if t.didx + 1 = 2 then .clear else t.dstate }

/-- CLEAR (44_dispatcher.md R240). -/
def execClear (s : State) : StepOutcome :=
  s.inState .clear fun s => .next { s.start with cmdbuf := [], didx := 0, dstate := .idle }

end Sys2Proof.Machine
end

