-- ==== Sys2Proof/Machine/Queue.lean ====
section
/-! DEFINITION. The meanings of Q_PUT, Q_GET_WAIT and Q_GET_NOWAIT (43_byte_queue.md). -/

namespace Sys2Proof.Machine

/-- Q_PUT(value) (43_byte_queue.md R201; log 11). -/
def execQPut (v : Half) (s : State) : StepOutcome :=
  .next ((s.start.qPut v).2.answer (.putOk (s.start.qPut v).1))

/-- Q_GET_WAIT() (43_byte_queue.md R202). -/
def execQGetWait (s : State) : StepOutcome :=
  if s.qEmpty then .next s.blocked else .next (s.start.qTake.answer (.word s.qHead))

/-- Q_GET_NOWAIT(): on an empty queue it "reports failure, returns the word 0 and changes no state"
(43_byte_queue.md R203). -/
def execQGetNowait (s : State) : StepOutcome :=
  if s.qEmpty then .next (s.start.answer (.tryWord false 0))
  else .next (s.start.qTake.answer (.tryWord true s.qHead))

end Sys2Proof.Machine
end

