-- ==== Sys2Proof/Machine/Receive.lean ====
section
/-! DEFINITION. The meanings of RX_EDGE, RX_SAMPLE, RX_FINALIZE, DECODE, ENTER_RX and READ (42_receive.md). -/

namespace Sys2Proof.Machine

/-- RX_EDGE, the handler (42_receive.md R171; log 9). -/
def execRxEdge (s : State) : StepOutcome :=
  if s.edgeEnabled then .next s.start.edge else .next s.blocked

/-- RX_SAMPLE(l), the handler (42_receive.md R173; log 9). -/
def execRxSample (l : Level) (s : State) : StepOutcome :=
  if s.sampleEnabled then .next (s.start.sample l) else .next s.blocked

/-- RX_FINALIZE (42_receive.md R175; log 11). -/
def execRxFinalize (s : State) : StepOutcome := .next s.start.finalize

/-- DECODE(acc), a pure function of the low `W + 3` bits of its operand (42_receive.md R176; log 16). -/
def execDecode (acc : Half) (s : State) : StepOutcome :=
  let a : BitVec (s.cfg.w + 3) := acc.setWidth (s.cfg.w + 3)
  .next (s.start.answer (.decoded (frameDecode a).1 ((frameDecode a).2.setWidth 16)))

/-- ENTER_RX: "only when TX_BUSY = 0" (42_receive.md R180; log 10). -/
def execEnterRx (s : State) : StepOutcome :=
  if s.txBusy then .next s.blocked else .next s.start.enterRx

/-- READ(), one of its micro-steps (42_receive.md R181). -/
def execRead (s : State) : StepOutcome := s.afterRead (fun v s' => s'.answer (.value v))

end Sys2Proof.Machine
end

