-- ==== Sys2Proof/Machine/ResetOp.lean ====
section
/-! DEFINITION. The meaning of RESET (70_reset_and_hazards.md). -/

namespace Sys2Proof.Machine

/-- RESET (70_reset_and_hazards.md R290). -/
def execReset (s : State) : StepOutcome := .next s.resetRegisters

end Sys2Proof.Machine
end

