-- ==== Sys2Proof/Machine/Timing.lean ====
section
/-! DEFINITION. The meanings of CONFIGURE, CLK_TICK and DELAY (40_timing_baud.md). -/

namespace Sys2Proof.Machine

/-- CONFIGURE(rate) (40_timing_baud.md R131). -/
def execConfigure (rate : Mode) (s : State) : StepOutcome := .next (s.start.configure rate)

namespace State

/-- CLK_TICK, part 1: the receive sample compare (40_timing_baud.md R134). -/
def sampleCompare (ioIn : Level) (s : State) : State :=
  let s1 := if s.sampleMatch then { s with rxf := true } else s
  if s1.rxf && s1.sampleEnabled then State.sample ioIn { s1 with rxf := false } else s1

/-- CLK_TICK, part 2: the start edge capture (40_timing_baud.md R134). -/
def edgeCapture (ioIn : Level) (s : State) : State :=
  let s1 := if s.edgeSeen ioIn then { s with icf := true, capt := s.tcnt } else s
  if s1.icf && s1.edgeEnabled then State.edge { s1 with icf := false } else s1

/-- CLK_TICK, part 3: the transmit compare (40_timing_baud.md R134). -/
def transmitCompare (s : State) : State :=
  let s1 := if s.transmitMatch then { s with txf := true } else s
  if s1.txf && s1.tickEnabled then State.tick { s1 with txf := false } else s1

/-- CLK_TICK, part 4: the bookkeeping (40_timing_baud.md R134). -/
def advance (ioIn : Level) (s : State) : State :=
  { s with
    ioPrev := ioIn
    tcnt := if s.periodEnd then 0 else s.tcnt + 1
    delaycnt := if s.delaycnt = 0 then 0 else s.delaycnt - 1 }

/-- One CLK cycle: the sources in their order of priority, then the bookkeeping
(40_timing_baud.md R134, 60_exceptions.md R268). -/
def clockCycle (ioIn : Level) (s : State) : State :=
  (((s.sampleCompare ioIn).edgeCapture ioIn).transmitCompare).advance ioIn

end State

/-- CLK_TICK(io_in) (40_timing_baud.md R134). -/
def execClkTick (ioIn : Level) (s : State) : StepOutcome := .next (s.start.clockCycle ioIn)

/-- DELAY(n), one of its two micro-steps (40_timing_baud.md R138; log 12). Between the two, it holds the
foreground: see State.dispatcherInstr and State.held. -/
def execDelay (n : BitVec 32) (s : State) : StepOutcome :=
  match s.delayPhase with
  | .start => .next { s.start with delaycnt := n, delayPhase := .wait n }
  | .wait m =>
    if m = n ∧ s.delaycnt = 0 then .next { s.start with delayPhase := .start } else .next s.blocked

end Sys2Proof.Machine
end

