-- ==== Sys2Proof/Machine/Transmit.lean ====
section
/-! DEFINITION. The meanings of ENCODE, SEND, ENTER_TX, SEND_BYTE and TX_TICK (41_transmit.md). -/

namespace Sys2Proof.Machine

/-- ENCODE(v), a pure function of the low `W` bits of its operand (41_transmit.md R150; log 16). -/
def execEncode (v : Half) (s : State) : StepOutcome :=
  .next (s.start.answer (.code (frameEncode (v.setWidth s.cfg.w))))

/-- SEND(code) (41_transmit.md R152). -/
def execSend (code : Half) (s : State) : StepOutcome := s.afterSend code id

/-- ENTER_TX: "only as part of SEND's step, only when DIR = RX" (41_transmit.md R153; log 10). -/
def execEnterTx (s : State) : StepOutcome :=
  if s.txBusy = false ∧ s.dir = .rx then .next s.start.enterTx else .next s.blocked

/-- SEND_BYTE(b) (41_transmit.md R154). -/
def execSendByte (b : Byte) (s : State) : StepOutcome := s.afterSend (s.byteCode b) id

/-- TX_TICK, the handler (41_transmit.md R155; log 9). -/
def execTxTick (s : State) : StepOutcome :=
  if s.tickEnabled then .next s.start.tick else .next s.blocked

end Sys2Proof.Machine
end

