-- ==== Sys2Proof/Machine/Dispatch.lean ====
section
/-! DEFINITION. Every instruction's meaning, one arm per constructor. -/

namespace Sys2Proof.Machine

def exec (i : Instr) (s : State) : Host.Outcome State Fault Refusal :=
  match i with
  | .serial p1 p2 len => Sys2Proof.Machine.execSerial p1 p2 len s
  | .seed p1 p2 len => Sys2Proof.Machine.execSeed p1 p2 len s
  | .auth p1 p2 len => Sys2Proof.Machine.execAuth p1 p2 len s
  | .msg p1 p2 len => Sys2Proof.Machine.execMsg p1 p2 len s
  | .mbox p1 p2 len => Sys2Proof.Machine.execMbox p1 p2 len s
  | .cw p1 p2 len => Sys2Proof.Machine.execCw p1 p2 len s
  | .unknown ins p1 p2 len => Sys2Proof.Machine.execUnknown ins p1 p2 len s
  | .configure rate => Sys2Proof.Machine.execConfigure rate s
  | .clkTick ioIn => Sys2Proof.Machine.execClkTick ioIn s
  | .delay n => Sys2Proof.Machine.execDelay n s
  | .encode v => Sys2Proof.Machine.execEncode v s
  | .send code => Sys2Proof.Machine.execSend code s
  | .enterTx => Sys2Proof.Machine.execEnterTx s
  | .sendByte b => Sys2Proof.Machine.execSendByte b s
  | .txTick => Sys2Proof.Machine.execTxTick s
  | .rxEdge => Sys2Proof.Machine.execRxEdge s
  | .rxSample l => Sys2Proof.Machine.execRxSample l s
  | .rxFinalize => Sys2Proof.Machine.execRxFinalize s
  | .decode acc => Sys2Proof.Machine.execDecode acc s
  | .enterRx => Sys2Proof.Machine.execEnterRx s
  | .read => Sys2Proof.Machine.execRead s
  | .qPut v => Sys2Proof.Machine.execQPut v s
  | .qGetWait => Sys2Proof.Machine.execQGetWait s
  | .qGetNowait => Sys2Proof.Machine.execQGetNowait s
  | .boot => Sys2Proof.Machine.execBoot s
  | .atrTx => Sys2Proof.Machine.execAtrTx s
  | .atrDrain => Sys2Proof.Machine.execAtrDrain s
  | .modeSwitch => Sys2Proof.Machine.execModeSwitch s
  | .idle => Sys2Proof.Machine.execIdle s
  | .header => Sys2Proof.Machine.execHeader s
  | .dispatch => Sys2Proof.Machine.execDispatch s
  | .bodyTx => Sys2Proof.Machine.execBodyTx s
  | .cwEcho => Sys2Proof.Machine.execCwEcho s
  | .cwRx => Sys2Proof.Machine.execCwRx s
  | .trailerTx => Sys2Proof.Machine.execTrailerTx s
  | .clear => Sys2Proof.Machine.execClear s
  | .reset => Sys2Proof.Machine.execReset s

end Sys2Proof.Machine
end

