-- ==== Sys2Proof/Decode.lean ====
section
/-! DEFINITION. The decoder, total on any bytes, and after it the encoder.

Two formats share one byte stream: a wire command is the five header bytes in the order they are
received, class byte 0x53 first (30_encoding.md R107); an engine operation is its 8-bit number of
30_encoding.md R118, none of which is 0x53, and then its operand.
DESIGN CHOICE (log 6, safe): the table gives an operation its number only; the operand bytes after it, least
significant byte first, are the model's own. -/

namespace Sys2Proof

/-- What decoding answers: the instruction and the bytes after it, or why there is none. -/
abbrev Decoded := Except DecodeError (Instr × List Byte)

/-- The action of a header, by INS alone: the six named rows first, UNKNOWN when none matches
(30_encoding.md R109). -/
def commandOf (c : Config) (ins p1 p2 len : Byte) : Instr :=
  if ins = insSerial then .serial p1 p2 len
  else if ins = insSeed then .seed p1 p2 len
  else if ins = c.insAuth then .auth p1 p2 len
  else if ins = c.insMsg then .msg p1 p2 len
  else if ins = c.insMbox then .mbox p1 p2 len
  else if ins = c.insCw then .cw p1 p2 len
  else .unknown ins p1 p2 len

/-- INS, P1, P2 and LEN after the class byte. -/
def decodeHeader (c : Config) : List Byte → Decoded
  | ins :: p1 :: p2 :: len :: rest => .ok (commandOf c ins p1 p2 len, rest)
  | _ => .error .truncated

/-- A one-bit operand in one byte. -/
def bitOperand (f : Bool → Instr) : List Byte → Decoded
  | b :: rest =>
    if b = 0#8 then .ok (f false, rest)
    else if b = 1#8 then .ok (f true, rest)
    else .error .operandTooWide
  | [] => .error .truncated

/-- RATE1: 0 the handshake rate, 1 the operating rate (30_encoding.md R114). -/
def rateOfBit : Bool → Mode
  | false => .handshake
  | true => .operating

/-- An operand of one byte. -/
def byteOperand (f : Byte → Instr) : List Byte → Decoded
  | b :: rest => .ok (f b, rest)
  | [] => .error .truncated

/-- Two bytes, least significant first. -/
def halfOf (lo hi : Byte) : Half := hi ++ lo

/-- Four bytes, least significant first. -/
def wordOf (b0 b1 b2 b3 : Byte) : BitVec 32 := b3 ++ b2 ++ b1 ++ b0

/-- An operand of two bytes. -/
def halfOperand (c : Config) (f : Half → Instr) : List Byte → Decoded
  | lo :: hi :: rest =>
    if (f (halfOf lo hi)).wf c then .ok (f (halfOf lo hi), rest) else .error .operandTooWide
  | _ => .error .truncated

/-- An operand of four bytes. -/
def wordOperand (f : BitVec 32 → Instr) : List Byte → Decoded
  | b0 :: b1 :: b2 :: b3 :: rest => .ok (f (wordOf b0 b1 b2 b3), rest)
  | _ => .error .truncated

/-- The operation numbers of 30_encoding.md R118. -/
def decodeOperation (c : Config) (op : Byte) (rest : List Byte) : Decoded :=
  match op.toNat with
  | 0x01 => bitOperand (fun b => .configure (rateOfBit b)) rest
  | 0x02 => bitOperand .clkTick rest
  | 0x03 => wordOperand .delay rest
  | 0x10 => halfOperand c .encode rest
  | 0x11 => halfOperand c .send rest
  | 0x12 => .ok (.enterTx, rest)
  | 0x13 => byteOperand .sendByte rest
  | 0x14 => .ok (.txTick, rest)
  | 0x20 => .ok (.rxEdge, rest)
  | 0x21 => bitOperand .rxSample rest
  | 0x22 => .ok (.rxFinalize, rest)
  | 0x23 => halfOperand c .decode rest
  | 0x24 => .ok (.enterRx, rest)
  | 0x25 => .ok (.read, rest)
  | 0x30 => halfOperand c .qPut rest
  | 0x31 => .ok (.qGetWait, rest)
  | 0x32 => .ok (.qGetNowait, rest)
  | 0x40 => .ok (.boot, rest)
  | 0x41 => .ok (.atrTx, rest)
  | 0x42 => .ok (.atrDrain, rest)
  | 0x43 => .ok (.modeSwitch, rest)
  | 0x44 => .ok (.idle, rest)
  | 0x45 => .ok (.header, rest)
  | 0x46 => .ok (.dispatch, rest)
  | 0x47 => .ok (.bodyTx, rest)
  | 0x48 => .ok (.cwEcho, rest)
  | 0x49 => .ok (.cwRx, rest)
  | 0x4A => .ok (.trailerTx, rest)
  | 0x4B => .ok (.clear, rest)
  | 0x50 => .ok (.reset, rest)
  | _ => .error (.unknownOperation op)

/-- The instruction at the head of a sequence of bytes, and what follows it. -/
def decode (c : Config) : List Byte → Decoded
  | [] => .error .noBytes
  | b :: rest => if b = cla then decodeHeader c rest else decodeOperation c b rest

/-- A bit operand as a byte. -/
def bitByte : Bool → Byte
  | false => 0#8
  | true => 1#8

/-- The RATE1 bit of a rate (30_encoding.md R114). -/
def rateByte : Mode → Byte
  | .handshake => 0#8
  | .operating => 1#8

/-- The two bytes of a half, least significant first. -/
def halfBytes (v : Half) : List Byte := [v.extractLsb' 0 8, v.extractLsb' 8 8]

/-- The four bytes of a word, least significant first. -/
def wordBytes (v : BitVec 32) : List Byte :=
  [v.extractLsb' 0 8, v.extractLsb' 8 8, v.extractLsb' 16 8, v.extractLsb' 24 8]

/-- The bytes of an instruction (30_encoding.md R107, R109, R118). -/
def encode (c : Config) : Instr → List Byte
  | .serial p1 p2 len => [cla, insSerial, p1, p2, len]
  | .seed p1 p2 len => [cla, insSeed, p1, p2, len]
  | .auth p1 p2 len => [cla, c.insAuth, p1, p2, len]
  | .msg p1 p2 len => [cla, c.insMsg, p1, p2, len]
  | .mbox p1 p2 len => [cla, c.insMbox, p1, p2, len]
  | .cw p1 p2 len => [cla, c.insCw, p1, p2, len]
  | .unknown ins p1 p2 len => [cla, ins, p1, p2, len]
  | .configure rate => [0x01#8, rateByte rate]
  | .clkTick l => [0x02#8, bitByte l]
  | .delay n => 0x03#8 :: wordBytes n
  | .encode v => 0x10#8 :: halfBytes v
  | .send code => 0x11#8 :: halfBytes code
  | .enterTx => [0x12#8]
  | .sendByte b => [0x13#8, b]
  | .txTick => [0x14#8]
  | .rxEdge => [0x20#8]
  | .rxSample l => [0x21#8, bitByte l]
  | .rxFinalize => [0x22#8]
  | .decode acc => 0x23#8 :: halfBytes acc
  | .enterRx => [0x24#8]
  | .read => [0x25#8]
  | .qPut v => 0x30#8 :: halfBytes v
  | .qGetWait => [0x31#8]
  | .qGetNowait => [0x32#8]
  | .boot => [0x40#8]
  | .atrTx => [0x41#8]
  | .atrDrain => [0x42#8]
  | .modeSwitch => [0x43#8]
  | .idle => [0x44#8]
  | .header => [0x45#8]
  | .dispatch => [0x46#8]
  | .bodyTx => [0x47#8]
  | .cwEcho => [0x48#8]
  | .cwRx => [0x49#8]
  | .trailerTx => [0x4A#8]
  | .clear => [0x4B#8]
  | .reset => [0x50#8]

/-- The bytes of a table word of `nbits` bits. A CMD40 word (40 bits) has the first byte received in
its high bits (30_encoding.md R107); an OPSEL8 word has its number in bits 7..0, and every operand
bit above `nbits` is 0. The longest instruction is five bytes. -/
def tableBytes (nbits w : Nat) : List Byte :=
  if nbits = 40 then
    [BitVec.ofNat 8 (w / 2 ^ 32), BitVec.ofNat 8 (w / 2 ^ 24), BitVec.ofNat 8 (w / 2 ^ 16),
     BitVec.ofNat 8 (w / 2 ^ 8), BitVec.ofNat 8 w]
  else
    let v := w % 2 ^ nbits
    [BitVec.ofNat 8 v, BitVec.ofNat 8 (v / 2 ^ 8), BitVec.ofNat 8 (v / 2 ^ 16),
     BitVec.ofNat 8 (v / 2 ^ 24), BitVec.ofNat 8 (v / 2 ^ 32)]

/-- The instruction the decoder reads from a word of spec/opcode_table.json, for the reference
configuration (log 1, log 6). -/
def decodeTableWord (nbits w : Nat) : Option Instr :=
  match decode Config.reference (tableBytes nbits w) with
  | .ok (i, _) => some i
  | .error _ => none

end Sys2Proof
end

