-- ==== Sys2Proof/Machine/Fetch.lean ====
section
/-! DEFINITION. Whose turn it is and which instruction that turn runs; what an unfinished foreground operation holds back; and how an instruction is placed where the next turn finds it. -/

namespace Sys2Proof.Machine

/-- What a turn comes to. -/
inductive Fetched where
  /-- It runs this instruction from this state. -/
  | instr (i : Instr) (s : State)
  /-- A foreground operation that has to wait for the end of another one. -/
  | held (s : State)
  /-- The dispatcher's DSTATE is reserved. -/
  | stuck
  /-- Its bytes are no instruction. -/
  | undecodable (why : DecodeError)

/-- The operations of the foreground task: those whose context in 00_scope.md R10 is "foreground", and the
wire commands, which are the dispatcher's. The others are events, pure functions, the clock and reset. -/
def foreground : Instr → Bool
  | .serial _ _ _ => true
  | .seed _ _ _ => true
  | .auth _ _ _ => true
  | .msg _ _ _ => true
  | .mbox _ _ _ => true
  | .cw _ _ _ => true
  | .unknown _ _ _ _ => true
  | .configure _ => true
  | .clkTick _ => false
  | .delay _ => true
  | .encode _ => false
  | .send _ => true
  | .enterTx => true
  | .sendByte _ => true
  | .txTick => false
  | .rxEdge => false
  | .rxSample _ => false
  | .rxFinalize => false
  | .decode _ => false
  | .enterRx => true
  | .read => true
  | .qPut _ => false
  | .qGetWait => true
  | .qGetNowait => true
  | .boot => true
  | .atrTx => true
  | .atrDrain => true
  | .modeSwitch => true
  | .idle => true
  | .header => true
  | .dispatch => true
  | .bodyTx => true
  | .cwEcho => true
  | .cwRx => true
  | .trailerTx => true
  | .clear => true
  | .reset => false

/-- The operations that contain READ, by which a READ in progress goes on (44_dispatcher.md R225, R226,
R237). -/
def containsRead (i : Instr) : Bool := [.read, .idle, .header, .cwRx].contains i

namespace State

/-- There is one foreground task (00_scope.md R9), and DELAY "holds the dispatcher" (40_timing_baud.md R138),
as READ does while it blocks (42_receive.md R181): a foreground operation that is called between the
micro-steps of another one has to wait (DEDUCED, log 12, unsafe). -/
def held (s : State) (i : Instr) : Bool :=
  foreground i &&
    match s.delayPhase with
    | .wait n => decide (i ≠ .delay n)
    | .start => decide (s.rdphase ≠ .start) && !containsRead i

/-- CMDBUF[0..4], the header (20_memory.md R76). -/
def headerBytes (s : State) : List Byte := [0, 1, 2, 3, 4].map (Memory.read s.cmdbuf)

/-- The instruction at DISPATCH: the wire command whose header CMDBUF holds; DISPATCH itself when
CMDBUF[0] is not the class byte, which no run from reset shows (log 8). -/
def commandInstr (s : State) : Instr :=
  match decode s.cfg s.headerBytes with
  | .ok (i, _) => if Memory.read s.cmdbuf 0 = cla then i else .dispatch
  | .error _ => .dispatch

/-- The dispatcher's own program: DSTATE is the block's program counter (00_scope.md R8,
10_state.md R46). None in a reserved DSTATE. -/
def programInstr (s : State) : Option Instr :=
  match s.dstate with
  | .boot => some .boot
  | .atrTx => some .atrTx
  | .atrDrain => some .atrDrain
  | .modeSwitch => some .modeSwitch
  | .idle => some .idle
  | .header => some .header
  | .dispatch => some s.commandInstr
  | .bodyTx => some .bodyTx
  | .cwEcho => some .cwEcho
  | .cwRx => some .cwRx
  | .trailerTx => some .trailerTx
  | .clear => some .clear
  | .reserved _ => none

/-- The dispatcher's next micro-step: the second one of a DELAY in progress, which "holds the dispatcher"
(40_timing_baud.md R138; log 12), else its program's. -/
def dispatcherInstr (s : State) : Option Instr :=
  match s.delayPhase with
  | .wait n => some (.delay n)
  | .start => s.programInstr

/-- The instruction an agent's turn runs (00_scope.md R9). -/
def agentInstr (s : State) : Agent → Option Instr
  | .clock ioIn => some (.clkTick ioIn)
  | .dispatcher => s.dispatcherInstr
  | .reset => some .reset

/-- The next turn and the state without it: the head of the agenda, or a free turn (log 3). -/
def takeTurn (s : State) : Turn × State :=
  match s.agenda with
  | t :: ts => (t, { s with agenda := ts })
  | [] => (.agent (Config.freeTurn s.turns), { s with turns := s.turns + 1 })

/-- The instruction of a turn. -/
def fetchTurn (t : Turn) (s : State) : Fetched :=
  match t with
  | .agent a =>
    match s.agentInstr a with
    | some i => .instr i s
    | none => .stuck
  | .call bytes =>
    match decode s.cfg bytes with
    | .ok (i, _) => if s.held i then .held s else .instr i s
    | .error e => .undecodable e

/-- The instruction of the next turn. -/
def fetch (s : State) : Fetched := fetchTurn s.takeTurn.1 s.takeTurn.2

/-- The next instruction is a CLK_TICK. -/
def ticks (s : State) : Bool :=
  match s.fetch with
  | .instr (.clkTick _) _ => true
  | _ => false

/-- A header in CMDBUF[0..4] with the dispatcher, no DELAY in progress, about to act on it. -/
def placeCommand (bytes : List Byte) (s : State) : State :=
  { s with
    cmdbuf := (bytes.zipIdx).foldl (fun m x => Memory.store m x.2 x.1) s.cmdbuf
    dstate := .dispatch, delayPhase := .start, agenda := .agent .dispatcher :: s.agenda }

/-- An operation as the next turn, with nothing in progress that would hold it. A dispatcher step
`0x40 + DSTATE` also needs its DSTATE (30_encoding.md R118). -/
def placeOperation (bytes : List Byte) (s : State) : State :=
  let op := bytes.headD 0
  { s with
    dstate := if 0x40 ≤ op.toNat ∧ op.toNat ≤ 0x4B then dstateOf (op.setWidth 4) else s.dstate
    delayPhase := .start
    rdphase := if [0x25#8, 0x44#8, 0x45#8, 0x49#8].contains op then s.rdphase else .start
    agenda := .call bytes :: s.agenda }

end State

end Sys2Proof.Machine
end

