-- ==== Sys2Proof/Machine/Step.lean ====
section
/-! DEFINITION. One step of the block: the next turn's instruction, run. -/

namespace Sys2Proof.Machine

/-- One atomic step of one agent (00_scope.md R9). A configuration that violates a constraint is refused
(00_scope.md R6; log 15). -/
def step (s : State) : Host.Outcome State Fault Refusal :=
  if s.cfg.ok then
    match s.fetch with
    | .instr i t => exec i t
    | .held t => .next t.blocked
    | .stuck => .fault .stuck
    | .undecodable why => .refused (.undecodable why)
  else .refused .badConfiguration

/-- The state whose very next step runs the instruction of a table word (log 4): a wire command stands
in CMDBUF with the dispatcher at DISPATCH, an operation is the next turn. -/
def State.withFetchWord (s : State) (nbits w : Nat) : State :=
  if nbits = 40 then s.placeCommand (tableBytes nbits w) else s.placeOperation (tableBytes nbits w)

end Sys2Proof.Machine
end

