-- ==== Sys2Proof/Safety.lean ====
section
/-! DEFINITION. What a good state and a good run are, in the terms the statements use: the two invariants, the bytes the dispatcher owes the line, the queue as a list, short runs, and who may write what. -/

namespace Sys2Proof.Machine

/-! ### Short runs -/

/-- The answers of a list of instructions run one after the other, and the last state; none if one of
them stops. -/
def runAnswers : List Instr → State → Option (List Result × State)
  | [], s => some ([], s)
  | i :: is, s =>
    match exec i s with
    | .next t => (runAnswers is t).map fun p => (t.result :: p.1, p.2)
    | .fault _ => none
    | .refused _ => none

/-- The last state of a list of instructions run one after the other. -/
def runInstrs (is : List Instr) (s : State) : Option State := (runAnswers is s).map Prod.snd

/-- The CLK_TICKs of a waveform on `IO_IN`, one level per CLK cycle. -/
def clockTicks (levels : List Level) : List Instr := levels.map .clkTick

/-- A run of `k` steps: how many of them were CLK cycles, and the last state; none if a step stops. -/
def countedRun : Nat → State → Option (Nat × State)
  | 0, s => some (0, s)
  | k + 1, s =>
    match step s with
    | .next t => (countedRun k t).map fun p => (p.1 + cond s.ticks 1 0, p.2)
    | .fault _ => none
    | .refused _ => none

/-- The levels of the first `W + 3` bit periods of a code, earliest first (30_encoding.md R103, R105). -/
def codeLevels (w : Nat) (code : Half) : List Level := (List.range (w + 3)).map code.getLsbD

/-- A waveform in which each level lasts `p` CLK cycles. -/
def stretched (p : Nat) (levels : List Level) : List Level := levels.flatMap (List.replicate p)

namespace State

/-! ### The queue as a list -/

/-- The live words of QBUF, oldest first (20_memory.md R71). -/
def queueView (s : State) : List Half :=
  (List.range s.qcount).map fun i => s.qbuf.getD ((s.qrd + i) % s.cfg.qcap) 0

/-! ### The bytes owed -/

/-- The bytes the block answers to an instruction byte: the echo for CW, else the response table, then
the trailer (30_encoding.md R109, R110). The 32 payload bytes of CW come in after the echo. -/
def response (c : Config) (ins : Byte) : List Byte :=
  (if ins = c.insCw then [ins] else resp c ins) ++ [0x90#8, 0x00#8]

/-- The bytes the dispatcher has still to send before it listens for a class byte again. -/
def owed (s : State) : List Byte :=
  match s.dstate with
  | .boot => s.cfg.atr
  | .atrTx => s.cfg.atr.drop s.didx.toNat
  | .dispatch => response s.cfg (Memory.read s.cmdbuf 1)
  | .bodyTx => (resp s.cfg (Memory.read s.cmdbuf 1)).drop s.didx.toNat ++ [0x90#8, 0x00#8]
  | .cwEcho => Memory.read s.cmdbuf 1 :: [0x90#8, 0x00#8]
  | .cwRx => [0x90#8, 0x00#8]
  | .trailerTx => [0x90#8, 0x00#8].drop s.didx.toNat
  | .atrDrain => []
  | .modeSwitch => []
  | .idle => []
  | .header => []
  | .clear => []
  | .reserved _ => []

/-! ### The dispatcher's states -/

/-- The four power-on states (10_state.md R46). -/
def poweringOn (s : State) : Bool := [.boot, .atrTx, .atrDrain, .modeSwitch].contains s.dstate

/-- The states whose step contains READ. -/
def reading (s : State) : Bool := [.idle, .header, .cwRx].contains s.dstate

/-- The states of a command cycle after its class byte has been seen. -/
def inCommand (s : State) : Bool :=
  [.header, .dispatch, .bodyTx, .cwEcho, .cwRx, .trailerTx].contains s.dstate

/-- The range of DIDX in each micro-state (10_state.md R47). -/
def didxInRange (s : State) : Prop :=
  match s.dstate with
  | .atrTx => s.didx.toNat < 16
  | .header => 1 ≤ s.didx.toNat ∧ s.didx.toNat ≤ 4
  | .bodyTx => s.didx.toNat < (resp s.cfg (Memory.read s.cmdbuf 1)).length
  | .cwRx => s.didx.toNat < 32
  | .trailerTx => s.didx.toNat < 2
  | .boot => True
  | .atrDrain => True
  | .modeSwitch => True
  | .idle => True
  | .dispatch => True
  | .cwEcho => True
  | .clear => True
  | .reserved _ => True

end State

/-- The transitions of the dispatcher, "all of them" (44_dispatcher.md R220). -/
def mayFollow : DState → DState → Bool
  | .boot, .atrTx => true
  | .atrTx, .atrTx => true
  | .atrTx, .atrDrain => true
  | .atrDrain, .modeSwitch => true
  | .modeSwitch, .idle => true
  | .idle, .idle => true
  | .idle, .header => true
  | .header, .header => true
  | .header, .dispatch => true
  | .dispatch, .bodyTx => true
  | .dispatch, .cwEcho => true
  | .dispatch, .trailerTx => true
  | .bodyTx, .bodyTx => true
  | .bodyTx, .trailerTx => true
  | .cwEcho, .cwRx => true
  | .cwRx, .cwRx => true
  | .cwRx, .trailerTx => true
  | .trailerTx, .trailerTx => true
  | .trailerTx, .clear => true
  | .clear, .idle => true
  | _, _ => false

/-! ### Who writes what -/

/-- What an operation does to the state, in the words of the ownership table (10_state.md R51). -/
inductive Activity where
  /-- CLK_TICK, with the handlers it may run. -/
  | clocking
  /-- TX_TICK. -/
  | ticking
  /-- RX_EDGE. -/
  | edging
  /-- RX_SAMPLE and RX_FINALIZE. -/
  | sampling
  /-- Q_PUT. -/
  | putting
  /-- CONFIGURE. -/
  | configuring
  /-- DELAY. -/
  | delaying
  /-- SEND, with the ENTER_TX it may run. -/
  | sending
  /-- ENTER_TX. -/
  | takingLine
  /-- ENTER_RX. -/
  | listening
  /-- READ, with the ENTER_RX and the get it may run. -/
  | reading
  /-- The gets. -/
  | getting
  /-- A step of the dispatcher, by DSTATE or as a wire command. -/
  | dispatching
  /-- A dispatcher step that writes CMDBUF. -/
  | storing
  /-- MODE_SWITCH. -/
  | modeSwitching
  /-- RESET. -/
  | resetting
deriving DecidableEq, Repr

/-- The activities of each operation: its own and those of the operations it contains. -/
def activities : Instr → List Activity
  | .serial _ _ _ => [.dispatching]
  | .seed _ _ _ => [.dispatching]
  | .auth _ _ _ => [.dispatching]
  | .msg _ _ _ => [.dispatching]
  | .mbox _ _ _ => [.dispatching]
  | .cw _ _ _ => [.dispatching]
  | .unknown _ _ _ _ => [.dispatching]
  | .configure _ => [.configuring]
  | .clkTick _ => [.clocking]
  | .delay _ => [.delaying]
  | .encode _ => []
  | .send _ => [.sending]
  | .enterTx => [.takingLine]
  | .sendByte _ => [.sending]
  | .txTick => [.ticking]
  | .rxEdge => [.edging]
  | .rxSample _ => [.sampling]
  | .rxFinalize => [.sampling]
  | .decode _ => []
  | .enterRx => [.listening]
  | .read => [.reading]
  | .qPut _ => [.putting]
  | .qGetWait => [.getting]
  | .qGetNowait => [.getting]
  | .boot => [.dispatching, .configuring]
  | .atrTx => [.dispatching, .sending]
  | .atrDrain => [.dispatching]
  | .modeSwitch => [.dispatching, .configuring, .modeSwitching]
  | .idle => [.dispatching, .reading, .storing]
  | .header => [.dispatching, .reading, .storing]
  | .dispatch => [.dispatching]
  | .bodyTx => [.dispatching, .sending]
  | .cwEcho => [.dispatching, .sending]
  | .cwRx => [.dispatching, .reading, .storing]
  | .trailerTx => [.dispatching, .sending]
  | .clear => [.dispatching, .storing]
  | .reset => [.resetting]

/-- The operation has one of these activities. -/
def performs (i : Instr) (owners : List Activity) : Bool := owners.any (activities i).contains

/-! ### Invariants -/

/-- What every step keeps, whatever operation it runs (10_state.md section 12). -/
structure EngineInv (s : State) : Prop where
  /-- 00_scope.md R6. -/
  cfgOk : s.cfg.ok = true
  /-- 10_state.md R24: "Value is always P_HS or P_OP". -/
  periodIsARate : s.period = periodOf s.cfg .handshake ∨ s.period = periodOf s.cfg .operating
  /-- 10_state.md R57. -/
  tcntBelowPeriod : s.tcnt.toNat < s.period.toNat
  /-- 10_state.md R52. -/
  drainedIsEmpty : s.txArmed = false → s.txreg = 0xFFFF#16
  /-- 41_transmit.md R158 (e). -/
  drainedIsHigh : s.txArmed = false → s.ioOut = true
  /-- 10_state.md R54. -/
  sendingIsDeaf : s.dir = .tx → s.rxArmed = false
  /-- 10_state.md R54. -/
  armedIsSending : s.txArmed = true → s.dir = .tx
  /-- The receive engine samples only while it is armed (42_receive.md R170, 41_transmit.md R153). -/
  disarmedWaits : s.rxArmed = false → s.rxstate = .waitEdge
  /-- 10_state.md R53. -/
  waitingIsEmpty : s.rxstate = .waitEdge → s.rxacc = 0 ∧ s.rxcnt = 0
  /-- 10_state.md R57. -/
  rxcntBelowFrame : s.rxcnt.toNat < s.cfg.nFrame
  /-- 10_state.md R35. -/
  rxaccWidth : s.rxacc.toNat < 2 ^ s.cfg.nFrame
  /-- 10_state.md R40. -/
  queueLength : s.qbuf.length = s.cfg.qcap
  /-- 10_state.md R55. -/
  queueCount : s.qcount ≤ s.cfg.qcap
  /-- 10_state.md R42. -/
  queueRead : s.qrd < s.cfg.qcap
  /-- 10_state.md R55. -/
  queueWrite : s.qwr = (s.qrd + s.qcount) % s.cfg.qcap
  /-- CMDBUF is in canonical form (log 22). -/
  cmdbufWf : Memory.wf s.cmdbuf = true

/-- What every step of the block's own agents keeps: no operation is called from outside. -/
structure RunInv (s : State) : Prop extends EngineInv s where
  /-- Only agents take turns. -/
  agendaIsAgents : ∀ t ∈ s.agenda, ∃ a, t = .agent a
  /-- 10_state.md R22: GIE is 0 only between reset and the first CONFIGURE. -/
  maskedIsBoot : s.gie = false ↔ s.dstate = .boot
  /-- 60_exceptions.md R266. -/
  flagsClear : s.txf = false ∧ s.icf = false ∧ s.rxf = false
  /-- 70_reset_and_hazards.md R292: nothing is armed before BOOT. -/
  bootIsQuiet : s.dstate = .boot → s.txArmed = false
  /-- 44_dispatcher.md R223: MODE_SWITCH is entered drained, so its CONFIGURE cuts no frame short (R303). -/
  switchIsDrained : s.dstate = .modeSwitch → s.txArmed = false
  /-- 10_state.md R21. -/
  modeByState : s.mode = .handshake ↔ s.poweringOn = true
  /-- 10_state.md R24. -/
  periodByMode : s.period = periodOf s.cfg s.mode
  /-- 70_reset_and_hazards.md R293: the block does not listen before the first READ. -/
  powerOnIsDeaf : s.poweringOn = true → s.rxArmed = false
  /-- 44_dispatcher.md R220: "No step leads to a reserved DSTATE value". -/
  dstateNamed : ∀ k, s.dstate ≠ .reserved k
  /-- 10_state.md R48. -/
  rdphaseNamed : s.rdphase ≠ .reserved
  /-- 42_receive.md R181: READ is in progress only inside a step that contains it. -/
  readByState : s.rdphase ≠ .start → s.reading = true
  /-- 42_receive.md R181: RD_DELAY is entered with TX_BUSY = 0 and the engine not armed. -/
  delayIsDrained : s.rdphase = .delay → s.txArmed = false ∧ s.rxArmed = false
  /-- 42_receive.md R181: RD_WAIT is entered with the receive engine armed. -/
  waitIsArmed : s.rdphase = .wait → s.rxArmed = true
  /-- 10_state.md R57. -/
  rxcmpBelowPeriod : s.rxstate = .sample → s.rxcmp.toNat < s.period.toNat
  /-- 10_state.md R47. -/
  didxRange : s.didxInRange
  /-- CMDBUF[0] is the class byte (20_memory.md R76). -/
  classByte : s.inCommand = true → Memory.read s.cmdbuf 0 = 0x53#8
  /-- The CW states are entered for INS_CW only (44_dispatcher.md R227). -/
  cwByte : s.dstate = .cwEcho ∨ s.dstate = .cwRx → Memory.read s.cmdbuf 1 = s.cfg.insCw
  /-- 10_state.md R45: "zeroed at the end of every command cycle". -/
  bufferZeroed : s.poweringOn = true ∨ s.dstate = .idle → s.cmdbuf = []
  /-- 20_memory.md R72: "Bits 15 .. W of every word ever put are 0". -/
  queueWidth : ∀ x ∈ s.queueView, x.toNat < 2 ^ s.cfg.w

end Sys2Proof.Machine
end

