-- ==== Sys2Proof/Certificates/Slice0/Obligations.lean ====
section
/-! DEFINITION. The statements for the provers. -/

open Sys2Proof Sys2Proof.Machine

/-! ### Encodings -/

/-- Words written out from 30_encoding.md R107, R109 and R118, one of each family, decode to the
instruction they stand for (reference configuration). -/
def Obligations.SampleWordsDecode : Prop :=
  decodeTableWord 40 0b0101001101110000000000010000001000000110 = some (.serial 0x01 0x02 0x06) ∧
  decodeTableWord 40 0b0101001101111000000000000000000000000111 = some (.seed 0x00 0x00 0x07) ∧
  decodeTableWord 40 0b0101001101111111000000000000000000000000 = some (.unknown 0x7F 0x00 0x00 0x00) ∧
  decodeTableWord 8 0b00000010 = some (.clkTick false) ∧
  decodeTableWord 8 0b00010100 = some .txTick ∧
  decodeTableWord 8 0b00100101 = some .read ∧
  decodeTableWord 8 0b00110010 = some .qGetNowait ∧
  decodeTableWord 8 0b01001011 = some .clear ∧
  decodeTableWord 8 0b01010000 = some .reset

/-- Decoding the bytes of a well-formed instruction, with anything after them, gives it back. The operand
bytes of the engine operations are the model's own (log 6). -/
def Obligations.EncodedInstructionDecodes : Prop :=
  ∀ (c : Config) (i : Instr) (rest : List Byte), c.ok = true → i.wf c = true →
    decode c (encode c i ++ rest) = .ok (i, rest)

/-- What decodes is well formed, and its encoding is exactly the bytes that were read: each byte
sequence has one meaning. The operand bytes of the engine operations are the model's own (log 6). -/
def Obligations.DecodedBytesAreTheEncoding : Prop :=
  ∀ (c : Config) (bytes : List Byte) (i : Instr) (rest : List Byte),
    decode c bytes = .ok (i, rest) → i.wf c = true ∧ encode c i ++ rest = bytes

/-! ### The step -/

/-- A step runs the instruction of the next turn: of a called operation's bytes, of an agent, or of the
free turn when no turn has been chosen. A called foreground operation that another one in progress holds
back only loses its turn. The turns and the holding of calls are the model's own (log 3, log 4, log 12). -/
def Obligations.StepRunsTheDecodedInstruction : Prop :=
  ∀ s : State, s.cfg.ok = true →
    (∀ bytes ts i rest, s.agenda = .call bytes :: ts → decode s.cfg bytes = .ok (i, rest) →
      (s.held i = false → step s = exec i { s with agenda := ts }) ∧
      (s.held i = true → step s = .next { s with agenda := ts, result := .blocked, raised := none })) ∧
    (∀ a ts i, s.agenda = .agent a :: ts → State.agentInstr s a = some i →
      step s = exec i { s with agenda := ts }) ∧
    (∀ i, s.agenda = [] → State.agentInstr s (Config.freeTurn s.turns) = some i →
      step s = exec i { s with turns := s.turns + 1 })

/-- The instruction of each agent's turn: CLK_TICK, RESET, and for the dispatcher the second micro-step of a
DELAY in progress, else the operation numbered 0x40 + DSTATE; at DISPATCH, with the class byte in CMDBUF[0],
it is the wire command whose header CMDBUF[0..4] holds (log 8, log 12). -/
def Obligations.AgentsRunTheirOperations : Prop :=
  ∀ s : State,
    (∀ l, State.agentInstr s (.clock l) = some (.clkTick l)) ∧
    State.agentInstr s .reset = some .reset ∧
    (∀ n, s.delayPhase = .wait n → State.agentInstr s .dispatcher = some (.delay n)) ∧
    (s.delayPhase = .start → s.dstate ≠ .dispatch → (∀ k, s.dstate ≠ .reserved k) →
      ∃ i, State.agentInstr s .dispatcher = some i ∧
        encode s.cfg i = [0x40#8 + (dstateNumber s.dstate).setWidth 8]) ∧
    (s.delayPhase = .start → s.dstate = .dispatch → Memory.read s.cmdbuf 0 = 0x53#8 →
      ∃ i, State.agentInstr s .dispatcher = some i ∧ i.wf s.cfg = true ∧
        encode s.cfg i = [Memory.read s.cmdbuf 0, Memory.read s.cmdbuf 1, Memory.read s.cmdbuf 2,
          Memory.read s.cmdbuf 3, Memory.read s.cmdbuf 4])

/-- A configuration that violates a constraint of R6 is refused, and no step is taken; each constraint is
checked. -/
def Obligations.BadConfigurationIsRefused : Prop :=
  ∀ s : State,
    (¬ (4 ≤ s.cfg.pHs ∧ s.cfg.pHs < 65536) ∨ s.cfg.rateMult < 2 ∨ s.cfg.pHs % s.cfg.rateMult ≠ 0 ∨
      s.cfg.pHs / s.cfg.rateMult < 2 ∨ 4294967296 ≤ s.cfg.turnHs ∨ 4294967296 ≤ s.cfg.turnOp ∨
      s.cfg.qcap = 0 ∨ s.cfg.atr.length ≠ 16 ∨
      ¬ [0x70#8, 0x78#8, 0x7F#8, s.cfg.insAuth, s.cfg.insMsg, s.cfg.insMbox, s.cfg.insCw].Nodup) →
    step s = .refused .badConfiguration

/-! ### Timing and baud control -/

/-- CONFIGURE installs the period of the rate, zeroes the counter, clears the flags, empties TXREG,
leaves GIE at 1 and writes nothing else (R130, R131). -/
def Obligations.ConfigureInstallsThePeriod : Prop :=
  ∀ (rate : Mode) (s : State),
    exec (.configure rate) s = .next { s with
      gie := true
      period := match rate with
        | .handshake => BitVec.ofNat 16 s.cfg.pHs
        | .operating => BitVec.ofNat 16 (s.cfg.pHs / s.cfg.rateMult)
      tcnt := 0, txf := false, icf := false, rxf := false, txreg := 0xFFFF#16
      result := .done, raised := none }

/-- CLK_TICK always runs, whatever the events do: it follows the line into IO_PREV, counts TCNT modulo
PERIOD, counts DELAYCNT down to 0 and no further, and leaves MODE, GIE, DIR, PERIOD, the read cursor and
the dispatcher alone (CLK_TICK's bookkeeping). -/
def Obligations.ClkTickBookkeeping : Prop :=
  ∀ (l : Level) (s : State), ∃ t : State,
    exec (.clkTick l) s = .next t ∧
    t.ioPrev = l ∧
    t.tcnt = (if s.tcnt = s.period - 1 then 0 else s.tcnt + 1) ∧
    t.delaycnt = (if s.delaycnt = 0 then 0 else s.delaycnt - 1) ∧
    t.mode = s.mode ∧ t.gie = s.gie ∧ t.dir = s.dir ∧ t.period = s.period ∧ t.rxArmed = s.rxArmed ∧
    t.qrd = s.qrd ∧ t.cmdbuf = s.cmdbuf ∧ t.dstate = s.dstate ∧ t.didx = s.didx ∧
    t.rdphase = s.rdphase ∧ t.cfg = s.cfg ∧ t.delayPhase = s.delayPhase ∧ t.agenda = s.agenda ∧
    t.turns = s.turns ∧ t.resets = s.resets ∧ t.result = .done

/-- A CLK cycle in which no event condition holds and no flag is pending runs no handler. -/
def Obligations.ClkTickWithoutAnEvent : Prop :=
  ∀ (l : Level) (s : State),
    s.txf = false → s.icf = false → s.rxf = false →
    ¬ (s.rxArmed = true ∧ s.rxstate = .sample ∧ s.tcnt = s.rxcmp) →
    ¬ (s.rxArmed = true ∧ s.rxstate = .waitEdge ∧ s.ioPrev = true ∧ l = false) →
    ¬ (s.txArmed = true ∧ s.tcnt = s.period - 1) →
    exec (.clkTick l) s = .next { s with
      ioPrev := l
      tcnt := if s.tcnt = s.period - 1 then 0 else s.tcnt + 1
      delaycnt := if s.delaycnt = 0 then 0 else s.delaycnt - 1
      result := .done, raised := none }

/-- With events enabled and the receive engine disarmed, the CLK cycle that ends the bit period runs
TX_TICK if the transmit compare is armed. -/
def Obligations.ClkTickRunsTheTransmitTick : Prop :=
  ∀ (l : Level) (s : State),
    s.gie = true → s.rxArmed = false → s.txArmed = true → s.tcnt = s.period - 1 →
    exec (.clkTick l) s = .next { s with
      txf := false
      ioOut := s.txreg.getLsbD 0
      txArmed := decide (s.txreg ≠ 0xFFFF#16)
      txreg := if s.txreg = 0xFFFF#16 then s.txreg else (s.txreg >>> 1) ||| 0x8000#16
      ioPrev := l, tcnt := 0
      delaycnt := if s.delaycnt = 0 then 0 else s.delaycnt - 1
      result := .done, raised := none }

/-- With events enabled, the receive engine waiting and the transmit engine drained, the CLK cycle in
which the line falls captures TCNT and runs RX_EDGE. -/
def Obligations.ClkTickCapturesTheStartEdge : Prop :=
  ∀ s : State,
    s.gie = true → s.rxArmed = true → s.rxstate = .waitEdge → s.ioPrev = true → s.txArmed = false →
    exec (.clkTick false) s = .next { s with
      icf := false, capt := s.tcnt
      rxcmp := BitVec.ofNat 16 ((s.tcnt.toNat + s.period.toNat / 2) % s.period.toNat)
      rxacc := 0, rxcnt := 0, rxstate := .sample
      ioPrev := false
      tcnt := if s.tcnt = s.period - 1 then 0 else s.tcnt + 1
      delaycnt := if s.delaycnt = 0 then 0 else s.delaycnt - 1
      result := .done, raised := none }

/-- With events enabled, the receive engine sampling and the transmit engine drained, the CLK cycle in which
TCNT meets RXCMP takes the sample: before the last one of a frame it shifts the line level in at the top; and
at any sample, unless the line falls at the last one, it does what RX_SAMPLE does, whatever that raises,
and the bookkeeping. -/
def Obligations.ClkTickTakesASample : Prop :=
  ∀ (l : Level) (s : State),
    s.gie = true → s.rxArmed = true → s.rxstate = .sample → s.tcnt = s.rxcmp → s.txArmed = false →
    (s.rxcnt.toNat + 1 < s.cfg.w + 3 →
      ∃ acc : BitVec 12,
        exec (.clkTick l) s = .next { s with
          rxf := false, rxacc := acc, rxcnt := s.rxcnt + 1
          ioPrev := l
          tcnt := if s.tcnt = s.period - 1 then 0 else s.tcnt + 1
          delaycnt := if s.delaycnt = 0 then 0 else s.delaycnt - 1
          result := .done, raised := none } ∧
        ∀ k, acc.getLsbD k =
          if k < s.cfg.w + 2 then s.rxacc.getLsbD (k + 1) else decide (k = s.cfg.w + 2) && l) ∧
    (s.rxcnt.toNat + 1 ≠ s.cfg.w + 3 ∨ s.icf = false ∧ (s.ioPrev = false ∨ l = true) →
      ∃ t, exec (.rxSample l) s = .next t ∧
        exec (.clkTick l) s = .next { t with
          rxf := false
          ioPrev := l
          tcnt := if s.tcnt = s.period - 1 then 0 else s.tcnt + 1
          delaycnt := if s.delaycnt = 0 then 0 else s.delaycnt - 1 })

/-- Priority of simultaneous events: a falling line in the CLK cycle of the last sample first finalises
the frame, whose stop level is then 0, and in the same cycle opens the next frame. -/
def Obligations.LastSampleThenEdgeInOneCycle : Prop :=
  ∀ s : State,
    s.gie = true → s.rxArmed = true → s.rxstate = .sample → s.tcnt = s.rxcmp →
    s.rxcnt.toNat + 1 = s.cfg.w + 3 → s.ioPrev = true → s.txArmed = false →
    ∃ acc : BitVec 12,
      exec (.clkTick false) s = .next { s with
        rxf := false, icf := false, capt := s.tcnt
        rxcmp := BitVec.ofNat 16 ((s.tcnt.toNat + s.period.toNat / 2) % s.period.toNat)
        rxacc := 0, rxcnt := 0, rxstate := .sample
        ioPrev := false
        tcnt := if s.tcnt = s.period - 1 then 0 else s.tcnt + 1
        delaycnt := if s.delaycnt = 0 then 0 else s.delaycnt - 1
        result := .done, raised := some (.frameError acc) } ∧
      acc.getLsbD (s.cfg.w + 2) = false ∧
      ∀ k, k < s.cfg.w + 2 → acc.getLsbD k = s.rxacc.getLsbD (k + 1)

/-- DELAY(n): the first micro-step loads DELAYCNT, the second is enabled once DELAYCNT is 0 and blocked
before; and after the first, however the turns fall, called operations among them, until a RESET or `n` CLK
cycles have gone by the foreground is held: DELAYCNT only counts the CLK cycles, the second micro-step has
not been taken, and nothing that the dispatcher owns has changed (R138). The phase between the two
micro-steps and the count of RESETs are the model's own fields (log 12, log 21). -/
def Obligations.DelayHasTwoMicroSteps : Prop :=
  ∀ (n : BitVec 32) (s : State),
    (s.delayPhase = .start →
      exec (.delay n) s = .next { s with
        delaycnt := n, delayPhase := .wait n, result := .done, raised := none }) ∧
    (s.delayPhase = .wait n → s.delaycnt = 0 →
      exec (.delay n) s = .next { s with delayPhase := .start, result := .done, raised := none }) ∧
    (∀ m, s.delayPhase = .wait m → ¬ (m = n ∧ s.delaycnt = 0) →
      exec (.delay n) s = .next { s with result := .blocked, raised := none }) ∧
    (∀ u k c t, s.delayPhase = .start → exec (.delay n) s = .next u → countedRun k u = some (c, t) →
      t.resets = s.resets → c < n.toNat →
      t.delayPhase = .wait n ∧ t.delaycnt.toNat = n.toNat - c ∧
      t.mode = s.mode ∧ t.gie = s.gie ∧ t.dir = s.dir ∧ t.period = s.period ∧ t.rxArmed = s.rxArmed ∧
      t.qrd = s.qrd ∧ t.cmdbuf = s.cmdbuf ∧ t.dstate = s.dstate ∧ t.didx = s.didx ∧
      t.rdphase = s.rdphase)

/-- After any number of CLK cycles, whatever the line and the engines do, TCNT has counted them modulo
PERIOD and DELAYCNT has counted them down to 0 (R133, R138). -/
def Obligations.TimerCountsModuloPeriod : Prop :=
  ∀ (levels : List Level) (s : State), EngineInv s → ∃ t : State,
    runInstrs (clockTicks levels) s = some t ∧
    t.tcnt.toNat = (s.tcnt.toNat + levels.length) % s.period.toNat ∧
    t.delaycnt.toNat = s.delaycnt.toNat - levels.length

/-- A loaded frame: no TX_TICK before the next CLK cycle with TCNT = PERIOD - 1, and exactly one in it,
so its ticks come exactly PERIOD cycles apart (R135). -/
def Obligations.TransmitTicksComeOncePerPeriod : Prop :=
  ∀ (levels : List Level) (s : State), RunInv s → s.txArmed = true → ∃ t : State,
    runInstrs (clockTicks levels) s = some t ∧
    (levels.length < s.period.toNat - s.tcnt.toNat →
      t.txreg = s.txreg ∧ t.ioOut = s.ioOut ∧ t.txArmed = true) ∧
    (levels.length = s.period.toNat - s.tcnt.toNat →
      t.tcnt = 0 ∧ t.ioOut = s.txreg.getLsbD 0 ∧
      (s.txreg = 0xFFFF#16 → t.txArmed = false ∧ t.txreg = 0xFFFF#16) ∧
      (s.txreg ≠ 0xFFFF#16 → t.txArmed = true ∧ t.txreg = (s.txreg >>> 1) ||| 0x8000#16))

/-! ### Transmit engine -/

/-- The layout of the code ENCODE answers, for every data value of `W` bits; no state but the answer
changes (R101, R150). -/
def Obligations.EncodeLaysOutTheFrame : Prop :=
  ∀ (v : Half) (s : State), ∃ code : Half,
    exec (.encode v) s = .next { s with result := .code code, raised := none } ∧
    code.getLsbD 0 = false ∧
    (∀ i, i < s.cfg.w → code.getLsbD (1 + i) = !v.getLsbD (s.cfg.w - 1 - i)) ∧
    code.getLsbD (s.cfg.w + 1) = !parity (v.setWidth s.cfg.w) ∧
    (∀ k, s.cfg.w + 2 ≤ k → k < 16 → code.getLsbD k = true)

/-- The parity bit is the population count modulo 2, for both data widths (R151). -/
def Obligations.ParityIsPopulationCount : Prop :=
  ∀ (d : DataWidth) (v : BitVec d.bits),
    parity v = decide (((List.range d.bits).filter v.getLsbD).length % 2 = 1)

/-- SEND blocks while TX_BUSY is 1; else it takes the line if the block was listening, loads the code
and arms the compare (R152, R153). -/
def Obligations.SendLoadsTheFrameOrWaits : Prop :=
  ∀ (code : Half) (s : State),
    (s.txArmed = true →
      exec (.send code) s = .next { s with result := .blocked, raised := none }) ∧
    (s.txArmed = false → s.dir = .tx →
      exec (.send code) s = .next { s with
        txreg := code, txArmed := true, result := .done, raised := none }) ∧
    (s.txArmed = false → s.dir = .rx →
      exec (.send code) s = .next { s with
        rxArmed := false, rxstate := .waitEdge, rxacc := 0, rxcnt := 0, icf := false, rxf := false
        ioOut := true, dir := .tx
        txreg := code, txArmed := true, result := .done, raised := none })

/-- ENTER_TX, where SEND's step runs it (DIR is RX and the engine is drained): the receive engine is
disarmed and emptied, the line driven high; nothing else, the queue among it, is touched (R153). -/
def Obligations.EnterTxTakesTheLine : Prop :=
  ∀ s : State, s.txArmed = false → s.dir = .rx →
    exec .enterTx s = .next { s with
      rxArmed := false, rxstate := .waitEdge, rxacc := 0, rxcnt := 0, icf := false, rxf := false
      ioOut := true, dir := .tx, result := .done, raised := none }

/-- SEND_BYTE(b) is SEND of ENCODE of the byte zero-extended to `W` bits; drained, it runs and loads that
code (R154). -/
def Obligations.SendByteIsSendOfEncode : Prop :=
  ∀ (b : Byte) (s : State), ∃ code : Half,
    exec (.encode (b.setWidth 16)) s = .next { s with result := .code code, raised := none } ∧
    exec (.sendByte b) s = exec (.send code) s ∧
    (s.txArmed = false → ∃ t, exec (.sendByte b) s = .next t ∧
      t.txreg = code ∧ t.txArmed = true ∧ t.dir = .tx)

/-- TX_TICK, when armed with events enabled: bit 0 goes out; the all-ones register disarms, any other
shifts right with a one entering at bit 15 (R155). -/
def Obligations.TxTickShiftsOrDisarms : Prop :=
  ∀ s : State,
    (s.gie = true → s.txArmed = true → s.txreg = 0xFFFF#16 →
      exec .txTick s = .next { s with
        ioOut := true, txArmed := false, result := .done, raised := none }) ∧
    (s.gie = true → s.txArmed = true → s.txreg ≠ 0xFFFF#16 →
      exec .txTick s = .next { s with
        ioOut := s.txreg.getLsbD 0, txreg := (s.txreg >>> 1) ||| 0x8000#16
        result := .done, raised := none })

/-- A code whose highest 0 bit is bit `h` takes `h + 2` ticks: tick number `j` puts out bit `j` for
`j ≤ h`, after tick `h` the register is all ones, and tick `h + 1` puts out 1 and disarms (R157). -/
def Obligations.FrameTakesTicksToItsHighestZero : Prop :=
  ∀ (h : Nat) (s : State),
    s.gie = true → s.txArmed = true → h < 16 → s.txreg.getLsbD h = false →
    (∀ k, h < k → k < 16 → s.txreg.getLsbD k = true) →
    (∀ j, j ≤ h → ∃ t, runInstrs (List.replicate (j + 1) .txTick) s = some t ∧
      t.ioOut = s.txreg.getLsbD j ∧ t.txArmed = true ∧ (t.txreg = 0xFFFF#16 ↔ j = h)) ∧
    runInstrs (List.replicate (h + 2) .txTick) s = some { s with
      txreg := 0xFFFF#16, ioOut := true, txArmed := false, result := .done, raised := none }

/-! ### Receive engine -/

/-- RX_EDGE, when the engine waits for an edge with events enabled: the sample instant is the captured
time plus half a period, modulo the period (R171). -/
def Obligations.RxEdgeSetsTheSampleInstant : Prop :=
  ∀ s : State, s.gie = true → s.rxArmed = true → s.rxstate = .waitEdge →
    exec .rxEdge s = .next { s with
      rxcmp := BitVec.ofNat 16 ((s.capt.toNat + s.period.toNat / 2) % s.period.toNat)
      rxacc := 0, rxcnt := 0, rxstate := .sample, result := .done, raised := none }

/-- RX_SAMPLE(l), when the engine samples with events enabled: the level enters RXACC at bit `W + 2`
and RXCNT counts; the last sample of a frame also finalises it, in the same step, exactly as
RX_FINALIZE would (R173). -/
def Obligations.RxSampleShiftsTheLevelIn : Prop :=
  ∀ (l : Level) (s : State), s.gie = true → s.rxArmed = true → s.rxstate = .sample →
    ∃ acc : BitVec 12,
      (∀ k, acc.getLsbD k =
        if k < s.cfg.w + 2 then s.rxacc.getLsbD (k + 1) else decide (k = s.cfg.w + 2) && l) ∧
      ((s.rxcnt + 1).toNat ≠ s.cfg.w + 3 →
        exec (.rxSample l) s = .next { s with
          rxacc := acc, rxcnt := s.rxcnt + 1, result := .done, raised := none }) ∧
      ((s.rxcnt + 1).toNat = s.cfg.w + 3 →
        exec (.rxSample l) s = exec .rxFinalize { s with rxacc := acc, rxcnt := s.rxcnt + 1 })

/-- RX_FINALIZE, on the image in RXACC whose data value is `v`: with START 0, STOP 1 and the parity
level matching, `v` goes into the queue at the write cursor, or is dropped with QueueOverflow if the queue
is full; any other image is dropped with FrameError; in every case the accumulator is emptied and the
engine waits for the next edge (R175, R261, R262). -/
def Obligations.RxFinalizeDeliversOrDrops : Prop :=
  ∀ (v : Half) (s : State), s.rxacc.toNat < 2 ^ (s.cfg.w + 3) →
    (∀ i, v.getLsbD i = (decide (i < s.cfg.w) && !s.rxacc.getLsbD (s.cfg.w - i))) →
    (¬ (s.rxacc.getLsbD 0 = false ∧ s.rxacc.getLsbD (s.cfg.w + 2) = true ∧
        s.rxacc.getLsbD (s.cfg.w + 1) = !parity (v.setWidth s.cfg.w)) →
      exec .rxFinalize s = .next { s with
        rxacc := 0, rxcnt := 0, rxstate := .waitEdge
        result := .done, raised := some (.frameError s.rxacc) }) ∧
    (s.rxacc.getLsbD 0 = false → s.rxacc.getLsbD (s.cfg.w + 2) = true →
      s.rxacc.getLsbD (s.cfg.w + 1) = (!parity (v.setWidth s.cfg.w)) →
      (s.qcount = s.cfg.qcap →
        exec .rxFinalize s = .next { s with
          rxacc := 0, rxcnt := 0, rxstate := .waitEdge
          result := .done, raised := some (.queueOverflow v) }) ∧
      (s.qcount ≠ s.cfg.qcap →
        exec .rxFinalize s = .next { s with
          rxacc := 0, rxcnt := 0, rxstate := .waitEdge
          qbuf := s.qbuf.set s.qwr v, qwr := (s.qwr + 1) % s.cfg.qcap, qcount := s.qcount + 1
          result := .done, raised := none }))

/-- DECODE's answer, for every image of `W + 3` bits: the value is the DATA field bit-reversed and
complemented; it is valid exactly when START is 0, STOP is 1 and the PARITY level is the complement of
the value's parity. No state but the answer changes (R176). -/
def Obligations.DecodeReadsTheFields : Prop :=
  ∀ (acc : Half) (s : State), ∃ (valid : Bool) (v : Half),
    exec (.decode acc) s = .next { s with result := .decoded valid v, raised := none } ∧
    (∀ i, v.getLsbD i = (decide (i < s.cfg.w) && !acc.getLsbD (s.cfg.w - i))) ∧
    (valid = true ↔ acc.getLsbD 0 = false ∧ acc.getLsbD (s.cfg.w + 2) = true ∧
      acc.getLsbD (s.cfg.w + 1) = !parity (v.setWidth s.cfg.w))

/-- Round trip: the low `W + 3` bits of the code of a data value decode to it, as valid (R178). -/
def Obligations.DecodeUndoesEncode : Prop :=
  ∀ (v : Half) (s : State), v.toNat < 2 ^ s.cfg.w → ∃ code : Half,
    exec (.encode v) s = .next { s with result := .code code, raised := none } ∧
    exec (.decode (code &&& BitVec.ofNat 16 (2 ^ (s.cfg.w + 3) - 1))) s =
      .next { s with result := .decoded true v, raised := none }

/-- ENTER_RX, when the transmit engine is drained, turns the line round and arms the receive engine,
empty; IO_PREV and the queue are not written (R180). -/
def Obligations.EnterRxArmsTheReceiver : Prop :=
  ∀ s : State, s.txArmed = false →
    exec .enterRx s = .next { s with
      dir := .rx, rxstate := .waitEdge, rxacc := 0, rxcnt := 0, icf := false, rxf := false
      rxArmed := true, result := .done, raised := none }

/-- READ's micro-steps: RD_START goes straight to RD_WAIT if the engine is armed, else waits for TX_BUSY
= 0 and loads the delay of the mode; RD_DELAY waits for DELAYCNT = 0 and arms the receive engine; RD_WAIT
waits for a queued word and returns it masked to `W` bits (R181). RD_DELAY is stated for TX_BUSY = 0,
which R181 has from RD_START on. -/
def Obligations.ReadMicroSteps : Prop :=
  ∀ s : State,
    (s.rdphase = .start → s.rxArmed = true →
      exec .read s = .next { s with rdphase := .wait, result := .done, raised := none }) ∧
    (s.rdphase = .start → s.rxArmed = false → s.txArmed = true →
      exec .read s = .next { s with result := .blocked, raised := none }) ∧
    (s.rdphase = .start → s.rxArmed = false → s.txArmed = false →
      exec .read s = .next { s with
        rdphase := .delay
        delaycnt := match s.mode with
          | .handshake => BitVec.ofNat 32 s.cfg.turnHs
          | .operating => BitVec.ofNat 32 s.cfg.turnOp
        result := .done, raised := none }) ∧
    (s.rdphase = .delay → s.delaycnt ≠ 0 →
      exec .read s = .next { s with result := .blocked, raised := none }) ∧
    (s.rdphase = .delay → s.delaycnt = 0 → s.txArmed = false →
      exec .read s = .next { s with
        dir := .rx, rxstate := .waitEdge, rxacc := 0, rxcnt := 0, icf := false, rxf := false
        rxArmed := true, rdphase := .wait, result := .done, raised := none }) ∧
    (s.rdphase = .wait → s.qcount = 0 →
      exec .read s = .next { s with result := .blocked, raised := none }) ∧
    (∀ h : s.qrd < s.qbuf.length, s.rdphase = .wait → s.qcount ≠ 0 →
      exec .read s = .next { s with
        qrd := (s.qrd + 1) % s.cfg.qcap, qcount := s.qcount - 1, rdphase := .start
        result := .value (s.qbuf[s.qrd] &&& BitVec.ofNat 16 (2 ^ s.cfg.w - 1)), raised := none })

/-- The receive engine receives what the transmit engine sends: the `W + 3` samples of the code of any
data value, taken in order by an engine that has just seen a start edge, put that value at the end of the
queue and leave the engine waiting, empty. -/
def Obligations.SampledFrameReachesTheQueue : Prop :=
  ∀ (s : State) (v : BitVec s.cfg.w),
    EngineInv s → s.gie = true → s.rxArmed = true → s.rxstate = .sample →
    s.rxacc = 0 → s.rxcnt = 0 → s.qcount < s.cfg.qcap → ∃ t : State,
      runInstrs ((codeLevels s.cfg.w (frameEncode v)).map .rxSample) s = some t ∧
      t.queueView = s.queueView ++ [v.setWidth 16] ∧
      t.rxstate = .waitEdge ∧ t.rxacc = 0 ∧ t.rxcnt = 0 ∧ t.rxArmed = true ∧ t.raised = none

/-- Reception cycle by cycle: a frame whose bit periods last PERIOD cycles, beginning while the engine
waits on an idle line, is sampled at the middle of each bit and is in the queue
`PERIOD div 2 + (W + 2) * PERIOD` cycles after the cycle of its start edge, whatever TCNT was (R136). -/
def Obligations.FrameOnTheLineReachesTheQueue : Prop :=
  ∀ (s : State) (v : BitVec s.cfg.w),
    RunInv s → s.rxArmed = true → s.rxstate = .waitEdge → s.ioPrev = true →
    s.qcount < s.cfg.qcap → ∃ t : State,
      runInstrs (clockTicks ((stretched s.period.toNat (codeLevels s.cfg.w (frameEncode v))).take
        (s.period.toNat / 2 + (s.cfg.w + 2) * s.period.toNat + 1))) s = some t ∧
      t.queueView = s.queueView ++ [v.setWidth 16] ∧
      t.rxstate = .waitEdge ∧ t.rxArmed = true ∧ t.raised = none

/-- While the receive engine is disarmed nothing on the line has any effect but on IO_PREV (R170,
R279): two CLK cycles that differ in the level only lead to states that differ in IO_PREV only. -/
def Obligations.DisarmedReceiverIgnoresTheLine : Prop :=
  ∀ s : State, s.rxArmed = false → ∃ t : State,
    ∀ l, exec (.clkTick l) s = .next { t with ioPrev := l }

/-! ### Byte queue -/

/-- Q_PUT on a full queue fails and changes nothing; else it writes at the write cursor, advances it with
wraparound and counts (R201). -/
def Obligations.QPutWritesOrFails : Prop :=
  ∀ (v : Half) (s : State),
    (s.qcount = s.cfg.qcap →
      exec (.qPut v) s = .next { s with result := .putOk false, raised := none }) ∧
    (s.qcount ≠ s.cfg.qcap →
      exec (.qPut v) s = .next { s with
        qbuf := s.qbuf.set s.qwr v, qwr := (s.qwr + 1) % s.cfg.qcap, qcount := s.qcount + 1
        result := .putOk true, raised := none })

/-- The gets: on an empty queue Q_GET_WAIT blocks and Q_GET_NOWAIT answers (false, 0), both changing
nothing; else both return the word at the read cursor, advance it with wraparound and count down
(R202, R203). -/
def Obligations.QGetsTakeTheOldestWord : Prop :=
  ∀ s : State,
    (s.qcount = 0 →
      exec .qGetWait s = .next { s with result := .blocked, raised := none } ∧
      exec .qGetNowait s = .next { s with result := .tryWord false 0, raised := none }) ∧
    (∀ h : s.qrd < s.qbuf.length, s.qcount ≠ 0 →
      exec .qGetWait s = .next { s with
        qrd := (s.qrd + 1) % s.cfg.qcap, qcount := s.qcount - 1
        result := .word s.qbuf[s.qrd], raised := none } ∧
      exec .qGetNowait s = .next { s with
        qrd := (s.qrd + 1) % s.cfg.qcap, qcount := s.qcount - 1
        result := .tryWord true s.qbuf[s.qrd], raised := none })

/-- FIFO order and capacity. From an empty queue, QCAP successive puts succeed, a following put fails,
and then the gets return the words in the order they were put and leave the queue empty (R207). However puts
and gets are interleaved, the live words are a list: a put that succeeds appends its word, one that fails
leaves the list alone, and a get returns the head and leaves the tail (the order of R205, one
operation at a time). -/
def Obligations.QueueIsFifoOfItsCapacity : Prop :=
  ∀ s : State, EngineInv s →
    (∀ (vs : List Half) (extra : Half), s.qcount = 0 → vs.length = s.cfg.qcap → ∃ t : State,
      runAnswers (vs.map .qPut ++ [.qPut extra] ++ List.replicate vs.length .qGetWait) s =
        some (List.replicate vs.length (.putOk true) ++ [.putOk false] ++ vs.map .word, t) ∧
      t.qcount = 0 ∧ t.qrd = s.qrd ∧ t.qwr = s.qwr) ∧
    s.queueView.length = s.qcount ∧
    (∀ v, ∃ t, exec (.qPut v) s = .next t ∧
      if s.qcount = s.cfg.qcap then t.result = .putOk false ∧ t.queueView = s.queueView
      else t.result = .putOk true ∧ t.queueView = s.queueView ++ [v]) ∧
    (∀ w rest, s.queueView = w :: rest →
      (∃ t, exec .qGetWait s = .next t ∧ t.result = .word w ∧ t.queueView = rest) ∧
      (∃ t, exec .qGetNowait s = .next t ∧ t.result = .tryWord true w ∧ t.queueView = rest)) ∧
    (s.queueView = [] →
      (∃ t, exec .qGetWait s = .next t ∧ t.result = .blocked ∧ t.queueView = []) ∧
      (∃ t, exec .qGetNowait s = .next t ∧ t.result = .tryWord false 0 ∧ t.queueView = []))

/-! ### Dispatcher -/

/-- BOOT configures the handshake rate and goes to ATR_TX; MODE is not written (R221). -/
def Obligations.BootConfiguresTheHandshakeRate : Prop :=
  ∀ s : State, s.dstate = .boot →
    exec .boot s = .next { s with
      gie := true, period := BitVec.ofNat 16 s.cfg.pHs, tcnt := 0
      txf := false, icf := false, rxf := false, txreg := 0xFFFF#16
      didx := 0, dstate := .atrTx, result := .done, raised := none }

/-- ATR_TX, with the engine drained, is SEND_BYTE of `ATR[DIDX]`, after which DIDX counts and the
sixteenth byte leads to ATR_DRAIN; ATR_DRAIN waits for TX_BUSY = 0. Both block while TX_BUSY is 1
(R222, R223). -/
def Obligations.AtrIsSentAndDrained : Prop :=
  ∀ s : State,
    (s.dstate = .atrTx → s.txArmed = true →
      exec .atrTx s = .next { s with result := .blocked, raised := none }) ∧
    (∀ h : s.didx.toNat < s.cfg.atr.length, s.dstate = .atrTx → s.txArmed = false →
      ∃ t, exec (.sendByte s.cfg.atr[s.didx.toNat]) s = .next t ∧
        exec .atrTx s = .next { t with
          didx := s.didx + 1, dstate := if s.didx + 1 = 16 then .atrDrain else .atrTx }) ∧
    (s.dstate = .atrDrain → s.txArmed = true →
      exec .atrDrain s = .next { s with result := .blocked, raised := none }) ∧
    (s.dstate = .atrDrain → s.txArmed = false →
      exec .atrDrain s = .next { s with dstate := .modeSwitch, result := .done, raised := none })

/-- MODE_SWITCH: MODE becomes OPERATING and the timer is configured for the operating rate, in one step;
and nothing but RESET ever takes MODE back (R224). -/
def Obligations.ModeSwitchSelectsTheOperatingRate : Prop :=
  ∀ s : State,
    (s.dstate = .modeSwitch →
      exec .modeSwitch s = .next { s with
        mode := .operating
        gie := true, period := BitVec.ofNat 16 (s.cfg.pHs / s.cfg.rateMult), tcnt := 0
        txf := false, icf := false, rxf := false, txreg := 0xFFFF#16
        dstate := .idle, result := .done, raised := none }) ∧
    (∀ i t, i ≠ .reset → s.mode = .operating → exec i s = .next t → t.mode = .operating)

/-- IDLE runs READ's micro-steps; in the one that takes a queued word, a low byte 0x53 is stored at
CMDBUF[0] and HEADER begins, and any other is discarded with nothing written. Every other CMDBUF byte
reads as before (R225, R242). -/
def Obligations.IdleHuntsForTheClassByte : Prop :=
  ∀ s : State, s.dstate = .idle → Memory.wf s.cmdbuf = true →
    (s.rdphase = .start ∨ s.rdphase = .delay ∨ s.rdphase = .wait ∧ s.qcount = 0 →
      ∃ t, exec .read s = .next t ∧ exec .idle s = .next t) ∧
    (∀ h : s.qrd < s.qbuf.length, s.rdphase = .wait → s.qcount ≠ 0 →
      (s.qbuf[s.qrd].setWidth 8 ≠ 0x53#8 →
        exec .idle s = .next { s with
          qrd := (s.qrd + 1) % s.cfg.qcap, qcount := s.qcount - 1, rdphase := .start
          result := .done, raised := none }) ∧
      (s.qbuf[s.qrd].setWidth 8 = 0x53#8 → ∃ m : Memory,
        exec .idle s = .next { s with
          qrd := (s.qrd + 1) % s.cfg.qcap, qcount := s.qcount - 1, rdphase := .start
          cmdbuf := m, didx := 1, dstate := .header, result := .done, raised := none } ∧
        Memory.read m 0 = 0x53#8 ∧ ∀ a, a ≠ 0 → Memory.read m a = Memory.read s.cmdbuf a))

/-- HEADER runs READ's micro-steps; in the one that takes a queued word, its low byte is stored at
CMDBUF[DIDX], every other byte reads as before, DIDX counts, and after the fifth header byte DISPATCH
follows (R226, R242). -/
def Obligations.HeaderStoresItsBytes : Prop :=
  ∀ s : State, s.dstate = .header → Memory.wf s.cmdbuf = true →
    (s.rdphase = .start ∨ s.rdphase = .delay ∨ s.rdphase = .wait ∧ s.qcount = 0 →
      ∃ t, exec .read s = .next t ∧ exec .header s = .next t) ∧
    (∀ h : s.qrd < s.qbuf.length, s.rdphase = .wait → s.qcount ≠ 0 → s.didx.toNat < 32 →
      ∃ m : Memory,
        exec .header s = .next { s with
          qrd := (s.qrd + 1) % s.cfg.qcap, qcount := s.qcount - 1, rdphase := .start
          cmdbuf := m, didx := s.didx + 1
          dstate := if s.didx + 1 = 5 then .dispatch else .header, result := .done, raised := none } ∧
        Memory.read m s.didx.toNat = s.qbuf[s.qrd].setWidth 8 ∧
        ∀ a, a ≠ s.didx.toNat → Memory.read m a = Memory.read s.cmdbuf a)

/-- DISPATCH selects the action from CMDBUF[1] alone: CW goes to CW_ECHO, an instruction with a table of
length above 0 to BODY_TX, every other to TRAILER_TX; UnknownInstruction is raised exactly when the byte
is none of the six named values, and changes nothing (R227, R228, R263). -/
def Obligations.DispatchSelectsByInstructionByte : Prop :=
  ∀ s : State, s.cfg.ok = true → s.dstate = .dispatch →
    ∃ (d : DState) (r : Option Condition),
      exec .dispatch s = .next { s with didx := 0, dstate := d, result := .done, raised := r } ∧
      (Memory.read s.cmdbuf 1 = s.cfg.insCw → d = .cwEcho) ∧
      (Memory.read s.cmdbuf 1 = 0x70#8 → d = if s.cfg.serialTable = [] then .trailerTx else .bodyTx) ∧
      (Memory.read s.cmdbuf 1 = 0x78#8 → d = .bodyTx) ∧
      (Memory.read s.cmdbuf 1 = s.cfg.insMsg → d = if s.cfg.msgTable = [] then .trailerTx else .bodyTx) ∧
      (Memory.read s.cmdbuf 1 = s.cfg.insMbox → d = if s.cfg.mboxTable = [] then .trailerTx else .bodyTx) ∧
      (Memory.read s.cmdbuf 1 = s.cfg.insAuth → d = .trailerTx) ∧
      (Memory.read s.cmdbuf 1 ∉
          [0x70#8, 0x78#8, s.cfg.insAuth, s.cfg.insMsg, s.cfg.insMbox, s.cfg.insCw] →
        d = .trailerTx ∧ r = some (.unknownInstruction (Memory.read s.cmdbuf 1))) ∧
      (Memory.read s.cmdbuf 1 ∈
          [0x70#8, 0x78#8, s.cfg.insAuth, s.cfg.insMsg, s.cfg.insMbox, s.cfg.insCw] → r = none)

/-- Every wire command runs where its header has been captured: its step is the selection of its action
(R231 to R238), whatever P1, P2 and LEN are, and the bytes then owed to the line are its response; only
UNKNOWN raises a condition. -/
def Obligations.CommandsBeginTheirResponse : Prop :=
  ∀ (s : State) (p1 p2 len ins : Byte), s.cfg.ok = true → s.dstate = .dispatch →
    Memory.read s.cmdbuf 1 = ins →
    (ins = 0x70#8 → ∃ t, exec (.serial p1 p2 len) s = .next t ∧ t.raised = none ∧
      t.dstate = (if s.cfg.serialTable = [] then .trailerTx else .bodyTx) ∧
      t.owed = s.cfg.serialTable ++ [0x90#8, 0x00#8]) ∧
    (ins = 0x78#8 → ∃ t, exec (.seed p1 p2 len) s = .next t ∧ t.raised = none ∧ t.dstate = .bodyTx ∧
      t.owed = [0xFF#8, 0xFF#8, 0xFF#8, 0xFF#8, 0xFF#8, 0xFF#8, 0xFF#8, 0xFF#8, 0x90#8, 0x00#8]) ∧
    (ins = s.cfg.insAuth → ∃ t, exec (.auth p1 p2 len) s = .next t ∧ t.raised = none ∧
      t.dstate = .trailerTx ∧ t.owed = [0x90#8, 0x00#8]) ∧
    (ins = s.cfg.insMsg → ∃ t, exec (.msg p1 p2 len) s = .next t ∧ t.raised = none ∧
      t.dstate = (if s.cfg.msgTable = [] then .trailerTx else .bodyTx) ∧
      t.owed = s.cfg.msgTable ++ [0x90#8, 0x00#8]) ∧
    (ins = s.cfg.insMbox → ∃ t, exec (.mbox p1 p2 len) s = .next t ∧ t.raised = none ∧
      t.dstate = (if s.cfg.mboxTable = [] then .trailerTx else .bodyTx) ∧
      t.owed = s.cfg.mboxTable ++ [0x90#8, 0x00#8]) ∧
    (ins = s.cfg.insCw → ∃ t, exec (.cw p1 p2 len) s = .next t ∧ t.raised = none ∧
      t.dstate = .cwEcho ∧ t.owed = [ins, 0x90#8, 0x00#8]) ∧
    (ins ∉ [0x70#8, 0x78#8, s.cfg.insAuth, s.cfg.insMsg, s.cfg.insMbox, s.cfg.insCw] →
      ∃ t, exec (.unknown ins p1 p2 len) s = .next t ∧ t.raised = some (.unknownInstruction ins) ∧
        t.dstate = .trailerTx ∧ t.owed = [0x90#8, 0x00#8])

/-- The frame of the wire commands: a step of one changes DSTATE, DIDX and the labels and nothing else;
away from its captured header (another DSTATE, another instruction byte) it is not enabled. -/
def Obligations.CommandsChangeOnlyTheDispatcher : Prop :=
  ∀ (s : State) (p1 p2 len : Byte) (ins : Byte) (i : Instr),
    (i, ins) ∈ [(.serial p1 p2 len, 0x70#8), (.seed p1 p2 len, 0x78#8),
      (.auth p1 p2 len, s.cfg.insAuth), (.msg p1 p2 len, s.cfg.insMsg),
      (.mbox p1 p2 len, s.cfg.insMbox), (.cw p1 p2 len, s.cfg.insCw), (.unknown ins p1 p2 len, ins)] →
    i.wf s.cfg = true →
    (s.dstate = .dispatch → Memory.read s.cmdbuf 1 = ins → ∃ d r,
      exec i s = .next { s with didx := 0, dstate := d, result := .done, raised := r }) ∧
    (¬ (s.dstate = .dispatch ∧ Memory.read s.cmdbuf 1 = ins) →
      exec i s = .next { s with result := .blocked, raised := none })

/-- The dispatcher's turn at DISPATCH, with no DELAY in progress, runs the wire command of the header, and
that is DISPATCH's own step: the two readings of the opcode table agree (log 8). -/
def Obligations.CommandStepIsTheDispatchStep : Prop :=
  ∀ (s : State) (i : Instr), s.delayPhase = .start → s.dstate = .dispatch →
    State.agentInstr s .dispatcher = some i → exec i s = exec .dispatch s

/-- BODY_TX sends byte DIDX of the table of the instruction and goes to TRAILER_TX after the last;
CW_ECHO sends the instruction byte back; TRAILER_TX sends 90 then 00 and goes to CLEAR. Each is SEND_BYTE
with what follows it in the same step, blocked while the engine is busy (R230, R236, R239). -/
def Obligations.ResponseStepsSendTheirByte : Prop :=
  ∀ s : State,
    (s.txArmed = true → s.dstate = .bodyTx →
      exec .bodyTx s = .next { s with result := .blocked, raised := none }) ∧
    (s.txArmed = true → s.dstate = .cwEcho →
      exec .cwEcho s = .next { s with result := .blocked, raised := none }) ∧
    (s.txArmed = true → s.dstate = .trailerTx →
      exec .trailerTx s = .next { s with result := .blocked, raised := none }) ∧
    (∀ h : s.didx.toNat < (resp s.cfg (Memory.read s.cmdbuf 1)).length,
      s.txArmed = false → s.dstate = .bodyTx →
      ∃ t, exec (.sendByte (resp s.cfg (Memory.read s.cmdbuf 1))[s.didx.toNat]) s = .next t ∧
        exec .bodyTx s = .next
          (if (s.didx + 1).toNat = (resp s.cfg (Memory.read s.cmdbuf 1)).length
           then { t with didx := 0, dstate := .trailerTx } else { t with didx := s.didx + 1 })) ∧
    (s.txArmed = false → s.dstate = .cwEcho →
      ∃ t, exec (.sendByte (Memory.read s.cmdbuf 1)) s = .next t ∧
        exec .cwEcho s = .next { t with didx := 0, dstate := .cwRx }) ∧
    (s.txArmed = false → s.dstate = .trailerTx → s.didx = 0 →
      ∃ t, exec (.sendByte 0x90#8) s = .next t ∧ exec .trailerTx s = .next { t with didx := 1 }) ∧
    (s.txArmed = false → s.dstate = .trailerTx → s.didx = 1 →
      ∃ t, exec (.sendByte 0x00#8) s = .next t ∧
        exec .trailerTx s = .next { t with didx := 2, dstate := .clear })

/-- CW_RX runs READ's micro-steps; in the one that takes a queued word, payload byte DIDX is stored at
CMDBUF[5 + DIDX] if that is at most 31 and nowhere otherwise, every other byte reads as before, and after
the 32nd the trailer follows (R237, R242). -/
def Obligations.CwPayloadIsSwallowed : Prop :=
  ∀ s : State, s.dstate = .cwRx → Memory.wf s.cmdbuf = true →
    (s.rdphase = .start ∨ s.rdphase = .delay ∨ s.rdphase = .wait ∧ s.qcount = 0 →
      ∃ t, exec .read s = .next t ∧ exec .cwRx s = .next t) ∧
    (∀ h : s.qrd < s.qbuf.length, s.rdphase = .wait → s.qcount ≠ 0 → ∃ m : Memory,
      exec .cwRx s = .next { s with
        qrd := (s.qrd + 1) % s.cfg.qcap, qcount := s.qcount - 1, rdphase := .start
        cmdbuf := m
        didx := if s.didx + 1 = 32 then 0 else s.didx + 1
        dstate := if s.didx + 1 = 32 then .trailerTx else .cwRx
        result := .done, raised := none } ∧
      ∀ a, Memory.read m a =
        if a = 5 + s.didx.toNat ∧ a ≤ 31 then s.qbuf[s.qrd].setWidth 8 else Memory.read s.cmdbuf a)

/-- CLEAR zeroes CMDBUF and returns to IDLE, in one step that waits for nothing (R240). -/
def Obligations.ClearZeroesTheBuffer : Prop :=
  ∀ s : State, s.dstate = .clear → ∃ m : Memory,
    exec .clear s = .next { s with
      cmdbuf := m, didx := 0, dstate := .idle, result := .done, raised := none } ∧
    ∀ a, Memory.read m a = 0

/-! ### Reset -/

/-- RESET, from any state: every element of the reset table takes its reset value, in the same build
(R290, R60). QBUF keeps only its length: its contents are free. -/
def Obligations.ResetRestoresTheTable : Prop :=
  ∀ s : State, ∃ t : State, exec .reset s = .next t ∧
    t.mode = .handshake ∧ t.gie = false ∧ t.dir = .rx ∧ t.period = BitVec.ofNat 16 s.cfg.pHs ∧
    t.tcnt = 0 ∧ t.delaycnt = 0 ∧ t.txreg = 0xFFFF#16 ∧ t.txArmed = false ∧ t.ioOut = true ∧
    t.ioPrev = true ∧ t.rxArmed = false ∧ t.rxstate = .waitEdge ∧ t.rxacc = 0 ∧ t.rxcnt = 0 ∧
    t.capt = 0 ∧ t.rxcmp = 0 ∧ t.txf = false ∧ t.icf = false ∧ t.rxf = false ∧
    t.qbuf.length = s.cfg.qcap ∧ t.qcount = 0 ∧ t.qrd = 0 ∧ t.qwr = 0 ∧
    (∀ a, Memory.read t.cmdbuf a = 0) ∧ t.dstate = .boot ∧ t.didx = 0 ∧ t.rdphase = .start ∧
    t.cfg = s.cfg ∧
    t.txBusy = false ∧ t.ioOe = false ∧ t.qEmpty = true ∧ (s.cfg.qcap ≠ 0 → t.qFull = false)

/-- The state after reset meets both invariants, in every build that is not refused, and what it owes the
line is the ATR. -/
def Obligations.ResetStateMeetsTheInvariants : Prop :=
  ∀ c : Config, c.ok = true →
    EngineInv (State.resetWith c) ∧ RunInv (State.resetWith c) ∧ (State.resetWith c).owed = c.atr

/-! ### Where an operation does not run -/

/-- Called by number, a handler runs only while its source is armed and events are enabled, ENTER_TX only
where SEND's step would run it, ENTER_RX only while TX_BUSY is 0, and so does RD_DELAY, and a dispatcher
step only in its own DSTATE; elsewhere they are not enabled and change nothing but the labels. This is the
model's reading of the contexts the rules give these operations (log 5, log 9, log 10). -/
def Obligations.GuardedOperationsWait : Prop :=
  ∀ (l : Level) (s : State),
    (s.gie = false ∨ s.txArmed = false →
      exec .txTick s = .next { s with result := .blocked, raised := none }) ∧
    (¬ (s.gie = true ∧ s.rxArmed = true ∧ s.rxstate = .waitEdge) →
      exec .rxEdge s = .next { s with result := .blocked, raised := none }) ∧
    (¬ (s.gie = true ∧ s.rxArmed = true ∧ s.rxstate = .sample) →
      exec (.rxSample l) s = .next { s with result := .blocked, raised := none }) ∧
    (¬ (s.txArmed = false ∧ s.dir = .rx) →
      exec .enterTx s = .next { s with result := .blocked, raised := none }) ∧
    (s.txArmed = true → exec .enterRx s = .next { s with result := .blocked, raised := none }) ∧
    (s.txArmed = true → s.rdphase = .delay →
      exec .read s = .next { s with result := .blocked, raised := none }) ∧
    (∀ d i, (d, i) ∈ [(DState.boot, Instr.boot), (.atrTx, .atrTx), (.atrDrain, .atrDrain),
        (.modeSwitch, .modeSwitch), (.idle, .idle), (.header, .header), (.dispatch, .dispatch),
        (.bodyTx, .bodyTx), (.cwEcho, .cwEcho), (.cwRx, .cwRx), (.trailerTx, .trailerTx),
        (.clear, .clear)] → s.dstate ≠ d →
      exec i s = .next { s with result := .blocked, raised := none })

/-- The one fault: in a reserved DSTATE the dispatcher's turn, with no DELAY in progress, is stuck; and in the
reserved RDPHASE every step that contains READ, while the dispatcher's steps without it run
(93_implementation_defined.md U9; log 13). -/
def Obligations.ReservedStatesAreStuck : Prop :=
  ∀ s : State,
    (∀ k ts, s.cfg.ok = true → s.delayPhase = .start → s.dstate = .reserved k →
      s.agenda = .agent .dispatcher :: ts → step s = .fault .stuck) ∧
    (s.rdphase = .reserved → exec .read s = .fault .stuck ∧
      (s.dstate = .idle → exec .idle s = .fault .stuck) ∧
      (s.dstate = .header → exec .header s = .fault .stuck) ∧
      (s.dstate = .cwRx → exec .cwRx s = .fault .stuck))

/-! ### The whole machine -/

/-- Every step, whatever operation it runs, keeps the engine's invariant (R52 to R55 among it). -/
def Obligations.EveryStepKeepsTheEngineInvariant : Prop :=
  ∀ s t : State, EngineInv s → step s = .next t → EngineInv t

/-- In a run of the block's own agents there is no stop at all: every step leads to a next state, which
meets the invariant again (R220's named states, the flags clear, GIE, MODE and PERIOD, the transmit engine
drained where CONFIGURE runs (R303), the index ranges, the queue's words). -/
def Obligations.EveryRunGoesOnInTheInvariant : Prop :=
  ∀ s : State, RunInv s → ∃ t : State, step s = .next t ∧ RunInv t

/-- The dispatcher's states follow each other as R220 says, and no other agent's step but RESET changes
DSTATE or DIDX. -/
def Obligations.DispatcherFollowsItsTransitions : Prop :=
  ∀ (s t : State) (i : Instr), RunInv s →
    (State.agentInstr s .dispatcher = some i → exec i s = .next t →
      t.dstate = s.dstate ∨ mayFollow s.dstate t.dstate = true) ∧
    (∀ l, exec (.clkTick l) s = .next t → t.dstate = s.dstate ∧ t.didx = s.didx)

/-- The bytes owed are sent in order and whole, under every interleaving: a step of the clock or the
dispatcher either changes nothing of what is owed and leaves the frame in flight alone, but for one TX_TICK
that a clock's step may take; or loads the frame of exactly the first byte owed into a drained engine and
owes the rest; or takes in a whole header, leaves the transmit engine alone, and then owes the response of
its instruction byte. CONFIGURE among these steps never cuts a frame short (R132, R223, R303). -/
def Obligations.OwedBytesAreSentInOrder : Prop :=
  ∀ (s t : State) (a : Agent) (i : Instr), RunInv s → a ≠ .reset →
    State.agentInstr s a = some i → exec i s = .next t →
    (t.owed = s.owed ∧
      ((t.txreg, t.txArmed, t.ioOut) = (s.txreg, s.txArmed, s.ioOut) ∨
        a ≠ .dispatcher ∧ s.txArmed = true ∧ ∃ u, exec .txTick s = .next u ∧ u.result = .done ∧
          (t.txreg, t.txArmed, t.ioOut) = (u.txreg, u.txArmed, u.ioOut))) ∨
    (∃ b, s.owed = b :: t.owed ∧ s.txArmed = false ∧ t.txArmed = true ∧ t.dir = .tx ∧
      t.txreg = frameEncode (b.setWidth s.cfg.w)) ∨
    (s.dstate = .header ∧ t.dstate = .dispatch ∧ s.owed = [] ∧
      t.owed = State.response s.cfg (Memory.read t.cmdbuf 1) ∧
      (t.txreg, t.txArmed, t.ioOut) = (s.txreg, s.txArmed, s.ioOut))

/-- Who may write what, over every instruction: no operation outside the activities that own an element
changes it. The elements are all those of R51 (TXREG, TX_ARMED, IO_OUT; RXACC, RXCNT, RXSTATE, RXCMP; CAPT;
QBUF, QWR; QRD; QCOUNT; CMDBUF, DSTATE, DIDX, RDPHASE, MODE; PERIOD, GIE; TCNT, DELAYCNT, IO_PREV), and DIR
(R23), RX_ARMED (R33) and the flags beside them; RESET writes every one, and none writes the build
configuration (R294). -/
def Obligations.OnlyOwnersWrite : Prop :=
  ∀ (i : Instr) (s t : State), exec i s = .next t →
    t.cfg = s.cfg ∧ t.agenda = s.agenda ∧ t.turns = s.turns ∧
    (performs i [.modeSwitching, .resetting] = false → t.mode = s.mode) ∧
    (performs i [.configuring, .resetting] = false → t.gie = s.gie ∧ t.period = s.period) ∧
    (performs i [.configuring, .clocking, .resetting] = false → t.tcnt = s.tcnt ∧ t.txf = s.txf) ∧
    (performs i [.clocking, .delaying, .reading, .resetting] = false → t.delaycnt = s.delaycnt) ∧
    (performs i [.clocking, .resetting] = false → t.ioPrev = s.ioPrev ∧ t.capt = s.capt) ∧
    (performs i [.clocking, .ticking, .sending, .configuring, .resetting] = false →
      t.txreg = s.txreg) ∧
    (performs i [.clocking, .ticking, .sending, .resetting] = false → t.txArmed = s.txArmed) ∧
    (performs i [.clocking, .ticking, .sending, .takingLine, .resetting] = false →
      t.ioOut = s.ioOut) ∧
    (performs i [.sending, .takingLine, .listening, .reading, .resetting] = false →
      t.dir = s.dir ∧ t.rxArmed = s.rxArmed) ∧
    (performs i [.clocking, .edging, .sampling, .sending, .takingLine, .listening, .reading,
        .resetting] = false →
      t.rxacc = s.rxacc ∧ t.rxcnt = s.rxcnt ∧ t.rxstate = s.rxstate) ∧
    (performs i [.clocking, .edging, .resetting] = false → t.rxcmp = s.rxcmp) ∧
    (performs i [.configuring, .clocking, .sending, .takingLine, .listening, .reading,
        .resetting] = false → t.icf = s.icf ∧ t.rxf = s.rxf) ∧
    (performs i [.clocking, .sampling, .putting, .resetting] = false →
      t.qbuf = s.qbuf ∧ t.qwr = s.qwr) ∧
    (performs i [.getting, .reading, .resetting] = false → t.qrd = s.qrd) ∧
    (performs i [.clocking, .sampling, .putting, .getting, .reading, .resetting] = false →
      t.qcount = s.qcount) ∧
    (performs i [.storing, .resetting] = false → t.cmdbuf = s.cmdbuf) ∧
    (performs i [.dispatching, .resetting] = false → t.dstate = s.dstate ∧ t.didx = s.didx) ∧
    (performs i [.reading, .resetting] = false → t.rdphase = s.rdphase)

/-- P1, P2 and LEN, and everything else in CMDBUF but its class and instruction bytes, never matter to an
agent's step: two states that differ there only step to states that differ there only, so the relation goes
on from step to step, or they stop in the same way (R241). -/
def Obligations.HeaderParametersNeverMatter : Prop :=
  ∀ (s : State) (m : Memory) (a : Agent) (ts : List Turn), s.agenda = .agent a :: ts →
    Memory.wf s.cmdbuf = true → Memory.wf m = true →
    Memory.read m 0 = Memory.read s.cmdbuf 0 → Memory.read m 1 = Memory.read s.cmdbuf 1 →
    (∃ t m', step s = .next t ∧ step { s with cmdbuf := m } = .next { t with cmdbuf := m' } ∧
      Memory.wf t.cmdbuf = true ∧ Memory.wf m' = true ∧
      Memory.read m' 0 = Memory.read t.cmdbuf 0 ∧ Memory.read m' 1 = Memory.read t.cmdbuf 1) ∨
    (step s = step { s with cmdbuf := m } ∧ ∀ t, step s ≠ .next t)

/-- The conditions are labels only: no step depends on the labels the step before it left (R260). -/
def Obligations.LabelsNeverMatter : Prop :=
  ∀ (i : Instr) (s : State) (r : Result) (c : Option Condition),
    exec i { s with result := r, raised := c } = exec i s

/-- The action of a command cannot change during its cycle: CMDBUF[1] keeps its value from the second
HEADER byte on until CLEAR (R83). -/
def Obligations.InstructionByteIsStable : Prop :=
  ∀ (s t : State) (a : Agent) (i : Instr), RunInv s → a ≠ .reset →
    State.agentInstr s a = some i → exec i s = .next t →
    (s.dstate = .header ∧ 2 ≤ s.didx.toNat ∨ s.dstate = .dispatch ∨ s.dstate = .bodyTx ∨
      s.dstate = .cwEcho ∨ s.dstate = .cwRx ∨ s.dstate = .trailerTx) →
    Memory.read t.cmdbuf 1 = Memory.read s.cmdbuf 1
end

