-- ==== Sys2Proof/Laws/Frames.lean ====
section
/-! SUPPORT. The bits of a frame: what ENCODE lays out, what DECODE reads, and that the second undoes the first. -/

namespace Sys2Proof

/-- `W` is 8 or 9 (00_scope.md R6). -/
theorem Config.w_cases (c : Config) : c.w = 8 ∨ c.w = 9 := by
  unfold Config.w
  cases c.width <;> simp [DataWidth.bits]

/-- `W` is at most 9, the form most bounds need. -/
theorem Config.w_le (c : Config) : c.w ≤ 9 := by
  rcases c.w_cases with h | h <;> omega

namespace Machine

/-- Bit `i` of a reversed word is bit `w - 1 - i` (00_scope.md R11). -/
theorem getLsbD_bitrev {w : Nat} (v : BitVec w) (i : Nat) :
    (bitrev v).getLsbD i = (decide (i < w) && v.getLsbD (w - 1 - i)) := by
  rw [bitrev, BitVec.getLsbD_reverse, BitVec.getMsbD_eq_getLsbD]

/-- Every bit of a CODE16, by field (30_encoding.md R101). -/
theorem getLsbD_frameEncode {w : Nat} (v : BitVec w) {k : Nat} (hk : k < 16) :
    (frameEncode v).getLsbD k =
      if k = 0 then false
      else if k ≤ w then !v.getLsbD (w - k)
      else if k = w + 1 then !parity v
      else true := by
  unfold frameEncode
  simp only [BitVec.getLsbD_shiftLeft, BitVec.getLsbD_not, BitVec.getLsbD_setWidth,
    BitVec.getLsbD_cons, getLsbD_bitrev]
  rcases Nat.eq_zero_or_pos k with rfl | hpos
  · simp
  · have h1 : ¬ k < 1 := by omega
    have h0 : k ≠ 0 := by omega
    have h2 : k - 1 < 16 := by omega
    by_cases hle : k ≤ w
    · have h3 : k - 1 ≠ w := by omega
      have h4 : k - 1 < w := by omega
      have h5 : w - 1 - (k - 1) = w - k := by omega
      simp [hk, h1, h2, h0, h3, h4, h5, hle]
    · by_cases he : k = w + 1
      · subst he
        have h3 : w < 16 := by omega
        simp [hk, h3]
      · have h3 : k - 1 ≠ w := by omega
        have h4 : ¬ k - 1 < w := by omega
        simp [hk, h1, h2, h0, h3, h4, hle, he]

/-- Every bit of the value DECODE reads (42_receive.md R176). -/
theorem getLsbD_accValue {w : Nat} (acc : BitVec (w + 3)) (i : Nat) :
    (accValue acc).getLsbD i = (decide (i < w) && !acc.getLsbD (w - i)) := by
  rw [accValue, getLsbD_bitrev]
  by_cases h : i < w
  · have h2 : w - 1 - i < w := by omega
    have h3 : 1 + (w - 1 - i) = w - i := by omega
    simp [h, h2, h3]
  · simp [h]

/-- An image whose bits are those of a value's code is valid and holds that value. -/
theorem decode_of_code {w : Nat} (hw : w ≤ 9) (v : BitVec w) (acc : BitVec (w + 3))
    (h : ∀ k, k < w + 3 → acc.getLsbD k = (frameEncode v).getLsbD k) :
    accValue acc = v ∧ accValid acc = true := by
  have e : accValue acc = v := by
    apply BitVec.eq_of_getLsbD_eq
    intro i hi
    rw [getLsbD_accValue, h _ (by omega), getLsbD_frameEncode v (by omega)]
    have h1 : w - i ≠ 0 := by omega
    have h2 : w - (w - i) = i := by omega
    simp [hi, h1, h2]
  refine ⟨e, ?_⟩
  rw [accValid, e, h 0 (by omega), h (w + 2) (by omega), h (w + 1) (by omega),
    getLsbD_frameEncode v (by omega), getLsbD_frameEncode v (by omega),
    getLsbD_frameEncode v (by omega)]
  simp

/-- Widening a data value to a queue word and narrowing it again loses nothing. -/
theorem setWidth_setWidth_of_le {w : Nat} (hw : w ≤ 16) (v : BitVec w) :
    (v.setWidth 16).setWidth w = v := by
  apply BitVec.eq_of_getLsbD_eq
  intro i hi
  have : i < 16 := by omega
  simp [hi, this]

end Machine

end Sys2Proof
end

