-- ==== Sys2Proof/Laws/Memory.lean ====
section
/-! SUPPORT. CMDBUF as a memory: every operation keeps the canonical form, a read after a write gives the value written, a write leaves every other index alone. -/

namespace Sys2Proof.Machine.Memory

/-- The canonical form as a proposition that a proof can recurse on. -/
theorem wf_iff (m : Memory) :
    wf m = true ↔ m.Pairwise (fun x y => x.1 < y.1) ∧ ∀ x ∈ m, x.1 < cmdbufLen ∧ x.2 ≠ 0 := by
  simp [wf]

/-- An empty buffer is in canonical form: the reset value, and what CLEAR leaves. -/
theorem wf_nil : wf ([] : Memory) = true := rfl

/-- An empty buffer reads 0 everywhere. -/
@[simp] theorem read_nil (a : Nat) : read ([] : Memory) a = 0 := rfl

/-- An index below every listed one is not listed, and reads 0. -/
theorem read_below {m : Memory} {a : Nat} (h : ∀ x ∈ m, a < x.1) : read m a = 0 := by
  induction m with
  | nil => rfl
  | cons c m ih =>
    obtain ⟨b, x⟩ := c
    have hb : a < b := h (b, x) (by simp)
    have : ¬ b = a := by omega
    simp only [read, if_neg this]
    exact ih fun y hy => h y (by simp [hy])

/-- What `push` reads as. -/
theorem read_push (m : Memory) (a : Nat) (v : Byte) (j : Nat) (h : ∀ x ∈ m, a < x.1) :
    read (push a v m) j = if j = a then v else read m j := by
  unfold push
  split
  · rename_i hv
    split
    · rename_i hj
      rw [hj, read_below h, hv]
    · rfl
  · simp only [read]
    by_cases hj : j = a
    · simp [hj]
    · have : ¬ a = j := fun e => hj e.symm
      simp [hj, this]

/-- Read after write. -/
theorem read_write {m : Memory} (hm : m.Pairwise (fun x y => x.1 < y.1)) (a : Nat) (v : Byte) (j : Nat) :
    read (write m a v) j = if j = a then v else read m j := by
  induction m with
  | nil => simpa [write] using read_push [] a v j (by simp)
  | cons c m ih =>
    obtain ⟨b, x⟩ := c
    have htail := (List.pairwise_cons.1 hm).1
    have hrest := (List.pairwise_cons.1 hm).2
    unfold write
    split
    · rename_i hab
      refine read_push _ a v j ?_
      intro y hy
      rcases List.mem_cons.1 hy with rfl | hy
      · exact hab
      · exact Nat.lt_trans hab (htail y hy)
    · split
      · rename_i hab
        subst hab
        rw [read_push m a v j htail]
        by_cases hj : j = a
        · simp [hj]
        · have : ¬ a = j := fun e => hj e.symm
          simp [hj, read, this]
      · rename_i hlt hne
        simp only [read, ih hrest]
        by_cases hb : b = j
        · have : ¬ j = a := by omega
          simp [hb, this]
        · simp [hb]

/-- Every cell of a written memory is the written one or an old one. -/
theorem mem_write {m : Memory} {a : Nat} {v : Byte} {x : Host.Cell} (h : x ∈ write m a v) :
    (x = (a, v) ∧ v ≠ 0) ∨ x ∈ m := by
  induction m with
  | nil =>
    simp only [write, push] at h
    split at h
    · simp at h
    · exact .inl ⟨by simpa using h, ‹_›⟩
  | cons c m ih =>
    obtain ⟨b, y⟩ := c
    simp only [write, push] at h
    split at h
    · split at h
      · exact .inr h
      · rcases List.mem_cons.1 h with h | h
        · exact .inl ⟨h, ‹_›⟩
        · exact .inr h
    · split at h
      · split at h
        · exact .inr (List.mem_cons_of_mem _ h)
        · rcases List.mem_cons.1 h with h | h
          · exact .inl ⟨h, ‹_›⟩
          · exact .inr (List.mem_cons_of_mem _ h)
      · rcases List.mem_cons.1 h with h | h
        · exact .inr (h ▸ List.mem_cons_self)
        · rcases ih h with h | h
          · exact .inl h
          · exact .inr (List.mem_cons_of_mem _ h)

/-- A write keeps the indices strictly rising. -/
theorem pairwise_write {m : Memory} (hm : m.Pairwise (fun x y => x.1 < y.1)) (a : Nat) (v : Byte) :
    (write m a v).Pairwise (fun x y => x.1 < y.1) := by
  induction m with
  | nil => simp only [write, push]; split <;> simp
  | cons c m ih =>
    obtain ⟨b, y⟩ := c
    have htail := (List.pairwise_cons.1 hm).1
    have hrest := (List.pairwise_cons.1 hm).2
    simp only [write, push]
    split
    · rename_i hab
      split
      · exact hm
      · refine List.pairwise_cons.2 ⟨fun z hz => ?_, hm⟩
        rcases List.mem_cons.1 hz with rfl | hz
        · exact hab
        · exact Nat.lt_trans hab (htail z hz)
    · split
      · rename_i hab
        subst hab
        split
        · exact hrest
        · exact List.pairwise_cons.2 ⟨htail, hrest⟩
      · rename_i hlt hne
        refine List.pairwise_cons.2 ⟨fun z hz => ?_, ih hrest⟩
        rcases mem_write hz with ⟨rfl, -⟩ | hz
        · show b < a; omega
        · exact htail z hz

/-- A store keeps the canonical form. -/
theorem wf_store {m : Memory} (h : wf m = true) (a : Nat) (v : Byte) : wf (store m a v) = true := by
  unfold store
  split
  · rw [wf_iff] at h ⊢
    refine ⟨pairwise_write h.1 a v, fun x hx => ?_⟩
    rcases mem_write hx with ⟨rfl, hv⟩ | hx
    · exact ⟨‹_›, hv⟩
    · exact h.2 x hx
  · exact h

/-- A store inside CMDBUF sets its byte, a store above index 31 sets none (20_memory.md R77). -/
theorem read_store {m : Memory} (h : wf m = true) (a : Nat) (v : Byte) (j : Nat) :
    read (store m a v) j = if j = a ∧ a < cmdbufLen then v else read m j := by
  unfold store
  split
  · rename_i ha
    simp [read_write ((wf_iff m).1 h).1, ha]
  · rename_i ha
    simp [ha]

end Sys2Proof.Machine.Memory
end

