-- ==== Sys2Proof/Laws/State.lean ====
section
/-! SUPPORT. One lemma per field of State for each unconditional update of Machine/Ops.lean and of CLK_TICK's bookkeeping, so that no proof unfolds a record update. -/

namespace Sys2Proof.Machine.State

variable (s : State)

/-! ### start -/

@[simp] theorem start_mode : s.start.mode = s.mode := rfl
@[simp] theorem start_gie : s.start.gie = s.gie := rfl
@[simp] theorem start_dir : s.start.dir = s.dir := rfl
@[simp] theorem start_period : s.start.period = s.period := rfl
@[simp] theorem start_tcnt : s.start.tcnt = s.tcnt := rfl
@[simp] theorem start_delaycnt : s.start.delaycnt = s.delaycnt := rfl
@[simp] theorem start_txreg : s.start.txreg = s.txreg := rfl
@[simp] theorem start_txArmed : s.start.txArmed = s.txArmed := rfl
@[simp] theorem start_ioOut : s.start.ioOut = s.ioOut := rfl
@[simp] theorem start_ioPrev : s.start.ioPrev = s.ioPrev := rfl
@[simp] theorem start_rxArmed : s.start.rxArmed = s.rxArmed := rfl
@[simp] theorem start_rxstate : s.start.rxstate = s.rxstate := rfl
@[simp] theorem start_rxacc : s.start.rxacc = s.rxacc := rfl
@[simp] theorem start_rxcnt : s.start.rxcnt = s.rxcnt := rfl
@[simp] theorem start_capt : s.start.capt = s.capt := rfl
@[simp] theorem start_rxcmp : s.start.rxcmp = s.rxcmp := rfl
@[simp] theorem start_txf : s.start.txf = s.txf := rfl
@[simp] theorem start_icf : s.start.icf = s.icf := rfl
@[simp] theorem start_rxf : s.start.rxf = s.rxf := rfl
@[simp] theorem start_qbuf : s.start.qbuf = s.qbuf := rfl
@[simp] theorem start_qcount : s.start.qcount = s.qcount := rfl
@[simp] theorem start_qrd : s.start.qrd = s.qrd := rfl
@[simp] theorem start_qwr : s.start.qwr = s.qwr := rfl
@[simp] theorem start_cmdbuf : s.start.cmdbuf = s.cmdbuf := rfl
@[simp] theorem start_dstate : s.start.dstate = s.dstate := rfl
@[simp] theorem start_didx : s.start.didx = s.didx := rfl
@[simp] theorem start_rdphase : s.start.rdphase = s.rdphase := rfl
@[simp] theorem start_cfg : s.start.cfg = s.cfg := rfl
@[simp] theorem start_delayPhase : s.start.delayPhase = s.delayPhase := rfl
@[simp] theorem start_agenda : s.start.agenda = s.agenda := rfl
@[simp] theorem start_turns : s.start.turns = s.turns := rfl
@[simp] theorem start_resets : s.start.resets = s.resets := rfl
@[simp] theorem start_result : s.start.result = .done := rfl
@[simp] theorem start_raised : s.start.raised = none := rfl

/-! ### blocked -/

@[simp] theorem blocked_mode : s.blocked.mode = s.mode := rfl
@[simp] theorem blocked_gie : s.blocked.gie = s.gie := rfl
@[simp] theorem blocked_dir : s.blocked.dir = s.dir := rfl
@[simp] theorem blocked_period : s.blocked.period = s.period := rfl
@[simp] theorem blocked_tcnt : s.blocked.tcnt = s.tcnt := rfl
@[simp] theorem blocked_delaycnt : s.blocked.delaycnt = s.delaycnt := rfl
@[simp] theorem blocked_txreg : s.blocked.txreg = s.txreg := rfl
@[simp] theorem blocked_txArmed : s.blocked.txArmed = s.txArmed := rfl
@[simp] theorem blocked_ioOut : s.blocked.ioOut = s.ioOut := rfl
@[simp] theorem blocked_ioPrev : s.blocked.ioPrev = s.ioPrev := rfl
@[simp] theorem blocked_rxArmed : s.blocked.rxArmed = s.rxArmed := rfl
@[simp] theorem blocked_rxstate : s.blocked.rxstate = s.rxstate := rfl
@[simp] theorem blocked_rxacc : s.blocked.rxacc = s.rxacc := rfl
@[simp] theorem blocked_rxcnt : s.blocked.rxcnt = s.rxcnt := rfl
@[simp] theorem blocked_capt : s.blocked.capt = s.capt := rfl
@[simp] theorem blocked_rxcmp : s.blocked.rxcmp = s.rxcmp := rfl
@[simp] theorem blocked_txf : s.blocked.txf = s.txf := rfl
@[simp] theorem blocked_icf : s.blocked.icf = s.icf := rfl
@[simp] theorem blocked_rxf : s.blocked.rxf = s.rxf := rfl
@[simp] theorem blocked_qbuf : s.blocked.qbuf = s.qbuf := rfl
@[simp] theorem blocked_qcount : s.blocked.qcount = s.qcount := rfl
@[simp] theorem blocked_qrd : s.blocked.qrd = s.qrd := rfl
@[simp] theorem blocked_qwr : s.blocked.qwr = s.qwr := rfl
@[simp] theorem blocked_cmdbuf : s.blocked.cmdbuf = s.cmdbuf := rfl
@[simp] theorem blocked_dstate : s.blocked.dstate = s.dstate := rfl
@[simp] theorem blocked_didx : s.blocked.didx = s.didx := rfl
@[simp] theorem blocked_rdphase : s.blocked.rdphase = s.rdphase := rfl
@[simp] theorem blocked_cfg : s.blocked.cfg = s.cfg := rfl
@[simp] theorem blocked_delayPhase : s.blocked.delayPhase = s.delayPhase := rfl
@[simp] theorem blocked_agenda : s.blocked.agenda = s.agenda := rfl
@[simp] theorem blocked_turns : s.blocked.turns = s.turns := rfl
@[simp] theorem blocked_resets : s.blocked.resets = s.resets := rfl
@[simp] theorem blocked_result : s.blocked.result = .blocked := rfl
@[simp] theorem blocked_raised : s.blocked.raised = none := rfl

/-! ### answer -/

section
variable (r : Result)
@[simp] theorem answer_mode : (s.answer r).mode = s.mode := rfl
@[simp] theorem answer_gie : (s.answer r).gie = s.gie := rfl
@[simp] theorem answer_dir : (s.answer r).dir = s.dir := rfl
@[simp] theorem answer_period : (s.answer r).period = s.period := rfl
@[simp] theorem answer_tcnt : (s.answer r).tcnt = s.tcnt := rfl
@[simp] theorem answer_delaycnt : (s.answer r).delaycnt = s.delaycnt := rfl
@[simp] theorem answer_txreg : (s.answer r).txreg = s.txreg := rfl
@[simp] theorem answer_txArmed : (s.answer r).txArmed = s.txArmed := rfl
@[simp] theorem answer_ioOut : (s.answer r).ioOut = s.ioOut := rfl
@[simp] theorem answer_ioPrev : (s.answer r).ioPrev = s.ioPrev := rfl
@[simp] theorem answer_rxArmed : (s.answer r).rxArmed = s.rxArmed := rfl
@[simp] theorem answer_rxstate : (s.answer r).rxstate = s.rxstate := rfl
@[simp] theorem answer_rxacc : (s.answer r).rxacc = s.rxacc := rfl
@[simp] theorem answer_rxcnt : (s.answer r).rxcnt = s.rxcnt := rfl
@[simp] theorem answer_capt : (s.answer r).capt = s.capt := rfl
@[simp] theorem answer_rxcmp : (s.answer r).rxcmp = s.rxcmp := rfl
@[simp] theorem answer_txf : (s.answer r).txf = s.txf := rfl
@[simp] theorem answer_icf : (s.answer r).icf = s.icf := rfl
@[simp] theorem answer_rxf : (s.answer r).rxf = s.rxf := rfl
@[simp] theorem answer_qbuf : (s.answer r).qbuf = s.qbuf := rfl
@[simp] theorem answer_qcount : (s.answer r).qcount = s.qcount := rfl
@[simp] theorem answer_qrd : (s.answer r).qrd = s.qrd := rfl
@[simp] theorem answer_qwr : (s.answer r).qwr = s.qwr := rfl
@[simp] theorem answer_cmdbuf : (s.answer r).cmdbuf = s.cmdbuf := rfl
@[simp] theorem answer_dstate : (s.answer r).dstate = s.dstate := rfl
@[simp] theorem answer_didx : (s.answer r).didx = s.didx := rfl
@[simp] theorem answer_rdphase : (s.answer r).rdphase = s.rdphase := rfl
@[simp] theorem answer_cfg : (s.answer r).cfg = s.cfg := rfl
@[simp] theorem answer_delayPhase : (s.answer r).delayPhase = s.delayPhase := rfl
@[simp] theorem answer_agenda : (s.answer r).agenda = s.agenda := rfl
@[simp] theorem answer_turns : (s.answer r).turns = s.turns := rfl
@[simp] theorem answer_resets : (s.answer r).resets = s.resets := rfl
@[simp] theorem answer_result : (s.answer r).result = r := rfl
@[simp] theorem answer_raised : (s.answer r).raised = s.raised := rfl
end

/-! ### raise -/

section
variable (c : Condition)
@[simp] theorem raise_mode : (s.raise c).mode = s.mode := rfl
@[simp] theorem raise_gie : (s.raise c).gie = s.gie := rfl
@[simp] theorem raise_dir : (s.raise c).dir = s.dir := rfl
@[simp] theorem raise_period : (s.raise c).period = s.period := rfl
@[simp] theorem raise_tcnt : (s.raise c).tcnt = s.tcnt := rfl
@[simp] theorem raise_delaycnt : (s.raise c).delaycnt = s.delaycnt := rfl
@[simp] theorem raise_txreg : (s.raise c).txreg = s.txreg := rfl
@[simp] theorem raise_txArmed : (s.raise c).txArmed = s.txArmed := rfl
@[simp] theorem raise_ioOut : (s.raise c).ioOut = s.ioOut := rfl
@[simp] theorem raise_ioPrev : (s.raise c).ioPrev = s.ioPrev := rfl
@[simp] theorem raise_rxArmed : (s.raise c).rxArmed = s.rxArmed := rfl
@[simp] theorem raise_rxstate : (s.raise c).rxstate = s.rxstate := rfl
@[simp] theorem raise_rxacc : (s.raise c).rxacc = s.rxacc := rfl
@[simp] theorem raise_rxcnt : (s.raise c).rxcnt = s.rxcnt := rfl
@[simp] theorem raise_capt : (s.raise c).capt = s.capt := rfl
@[simp] theorem raise_rxcmp : (s.raise c).rxcmp = s.rxcmp := rfl
@[simp] theorem raise_txf : (s.raise c).txf = s.txf := rfl
@[simp] theorem raise_icf : (s.raise c).icf = s.icf := rfl
@[simp] theorem raise_rxf : (s.raise c).rxf = s.rxf := rfl
@[simp] theorem raise_qbuf : (s.raise c).qbuf = s.qbuf := rfl
@[simp] theorem raise_qcount : (s.raise c).qcount = s.qcount := rfl
@[simp] theorem raise_qrd : (s.raise c).qrd = s.qrd := rfl
@[simp] theorem raise_qwr : (s.raise c).qwr = s.qwr := rfl
@[simp] theorem raise_cmdbuf : (s.raise c).cmdbuf = s.cmdbuf := rfl
@[simp] theorem raise_dstate : (s.raise c).dstate = s.dstate := rfl
@[simp] theorem raise_didx : (s.raise c).didx = s.didx := rfl
@[simp] theorem raise_rdphase : (s.raise c).rdphase = s.rdphase := rfl
@[simp] theorem raise_cfg : (s.raise c).cfg = s.cfg := rfl
@[simp] theorem raise_delayPhase : (s.raise c).delayPhase = s.delayPhase := rfl
@[simp] theorem raise_agenda : (s.raise c).agenda = s.agenda := rfl
@[simp] theorem raise_turns : (s.raise c).turns = s.turns := rfl
@[simp] theorem raise_resets : (s.raise c).resets = s.resets := rfl
@[simp] theorem raise_result : (s.raise c).result = s.result := rfl
@[simp] theorem raise_raised : (s.raise c).raised = some c := rfl
end

/-! ### configure -/

section
variable (rate : Mode)
@[simp] theorem configure_mode : (s.configure rate).mode = s.mode := rfl
@[simp] theorem configure_gie : (s.configure rate).gie = true := rfl
@[simp] theorem configure_dir : (s.configure rate).dir = s.dir := rfl
@[simp] theorem configure_period : (s.configure rate).period = periodOf s.cfg rate := rfl
@[simp] theorem configure_tcnt : (s.configure rate).tcnt = 0 := rfl
@[simp] theorem configure_delaycnt : (s.configure rate).delaycnt = s.delaycnt := rfl
@[simp] theorem configure_txreg : (s.configure rate).txreg = 0xFFFF#16 := rfl
@[simp] theorem configure_txArmed : (s.configure rate).txArmed = s.txArmed := rfl
@[simp] theorem configure_ioOut : (s.configure rate).ioOut = s.ioOut := rfl
@[simp] theorem configure_ioPrev : (s.configure rate).ioPrev = s.ioPrev := rfl
@[simp] theorem configure_rxArmed : (s.configure rate).rxArmed = s.rxArmed := rfl
@[simp] theorem configure_rxstate : (s.configure rate).rxstate = s.rxstate := rfl
@[simp] theorem configure_rxacc : (s.configure rate).rxacc = s.rxacc := rfl
@[simp] theorem configure_rxcnt : (s.configure rate).rxcnt = s.rxcnt := rfl
@[simp] theorem configure_capt : (s.configure rate).capt = s.capt := rfl
@[simp] theorem configure_rxcmp : (s.configure rate).rxcmp = s.rxcmp := rfl
@[simp] theorem configure_txf : (s.configure rate).txf = false := rfl
@[simp] theorem configure_icf : (s.configure rate).icf = false := rfl
@[simp] theorem configure_rxf : (s.configure rate).rxf = false := rfl
@[simp] theorem configure_qbuf : (s.configure rate).qbuf = s.qbuf := rfl
@[simp] theorem configure_qcount : (s.configure rate).qcount = s.qcount := rfl
@[simp] theorem configure_qrd : (s.configure rate).qrd = s.qrd := rfl
@[simp] theorem configure_qwr : (s.configure rate).qwr = s.qwr := rfl
@[simp] theorem configure_cmdbuf : (s.configure rate).cmdbuf = s.cmdbuf := rfl
@[simp] theorem configure_dstate : (s.configure rate).dstate = s.dstate := rfl
@[simp] theorem configure_didx : (s.configure rate).didx = s.didx := rfl
@[simp] theorem configure_rdphase : (s.configure rate).rdphase = s.rdphase := rfl
@[simp] theorem configure_cfg : (s.configure rate).cfg = s.cfg := rfl
@[simp] theorem configure_delayPhase : (s.configure rate).delayPhase = s.delayPhase := rfl
@[simp] theorem configure_agenda : (s.configure rate).agenda = s.agenda := rfl
@[simp] theorem configure_turns : (s.configure rate).turns = s.turns := rfl
@[simp] theorem configure_resets : (s.configure rate).resets = s.resets := rfl
@[simp] theorem configure_result : (s.configure rate).result = s.result := rfl
@[simp] theorem configure_raised : (s.configure rate).raised = s.raised := rfl
end

/-! ### qTake -/

@[simp] theorem qTake_mode : s.qTake.mode = s.mode := rfl
@[simp] theorem qTake_gie : s.qTake.gie = s.gie := rfl
@[simp] theorem qTake_dir : s.qTake.dir = s.dir := rfl
@[simp] theorem qTake_period : s.qTake.period = s.period := rfl
@[simp] theorem qTake_tcnt : s.qTake.tcnt = s.tcnt := rfl
@[simp] theorem qTake_delaycnt : s.qTake.delaycnt = s.delaycnt := rfl
@[simp] theorem qTake_txreg : s.qTake.txreg = s.txreg := rfl
@[simp] theorem qTake_txArmed : s.qTake.txArmed = s.txArmed := rfl
@[simp] theorem qTake_ioOut : s.qTake.ioOut = s.ioOut := rfl
@[simp] theorem qTake_ioPrev : s.qTake.ioPrev = s.ioPrev := rfl
@[simp] theorem qTake_rxArmed : s.qTake.rxArmed = s.rxArmed := rfl
@[simp] theorem qTake_rxstate : s.qTake.rxstate = s.rxstate := rfl
@[simp] theorem qTake_rxacc : s.qTake.rxacc = s.rxacc := rfl
@[simp] theorem qTake_rxcnt : s.qTake.rxcnt = s.rxcnt := rfl
@[simp] theorem qTake_capt : s.qTake.capt = s.capt := rfl
@[simp] theorem qTake_rxcmp : s.qTake.rxcmp = s.rxcmp := rfl
@[simp] theorem qTake_txf : s.qTake.txf = s.txf := rfl
@[simp] theorem qTake_icf : s.qTake.icf = s.icf := rfl
@[simp] theorem qTake_rxf : s.qTake.rxf = s.rxf := rfl
@[simp] theorem qTake_qbuf : s.qTake.qbuf = s.qbuf := rfl
@[simp] theorem qTake_qcount : s.qTake.qcount = s.qcount - 1 := rfl
@[simp] theorem qTake_qrd : s.qTake.qrd = (s.qrd + 1) % s.cfg.qcap := rfl
@[simp] theorem qTake_qwr : s.qTake.qwr = s.qwr := rfl
@[simp] theorem qTake_cmdbuf : s.qTake.cmdbuf = s.cmdbuf := rfl
@[simp] theorem qTake_dstate : s.qTake.dstate = s.dstate := rfl
@[simp] theorem qTake_didx : s.qTake.didx = s.didx := rfl
@[simp] theorem qTake_rdphase : s.qTake.rdphase = s.rdphase := rfl
@[simp] theorem qTake_cfg : s.qTake.cfg = s.cfg := rfl
@[simp] theorem qTake_delayPhase : s.qTake.delayPhase = s.delayPhase := rfl
@[simp] theorem qTake_agenda : s.qTake.agenda = s.agenda := rfl
@[simp] theorem qTake_turns : s.qTake.turns = s.turns := rfl
@[simp] theorem qTake_resets : s.qTake.resets = s.resets := rfl
@[simp] theorem qTake_result : s.qTake.result = s.result := rfl
@[simp] theorem qTake_raised : s.qTake.raised = s.raised := rfl

/-! ### enterTx -/

@[simp] theorem enterTx_mode : s.enterTx.mode = s.mode := rfl
@[simp] theorem enterTx_gie : s.enterTx.gie = s.gie := rfl
@[simp] theorem enterTx_dir : s.enterTx.dir = .tx := rfl
@[simp] theorem enterTx_period : s.enterTx.period = s.period := rfl
@[simp] theorem enterTx_tcnt : s.enterTx.tcnt = s.tcnt := rfl
@[simp] theorem enterTx_delaycnt : s.enterTx.delaycnt = s.delaycnt := rfl
@[simp] theorem enterTx_txreg : s.enterTx.txreg = s.txreg := rfl
@[simp] theorem enterTx_txArmed : s.enterTx.txArmed = s.txArmed := rfl
@[simp] theorem enterTx_ioOut : s.enterTx.ioOut = true := rfl
@[simp] theorem enterTx_ioPrev : s.enterTx.ioPrev = s.ioPrev := rfl
@[simp] theorem enterTx_rxArmed : s.enterTx.rxArmed = false := rfl
@[simp] theorem enterTx_rxstate : s.enterTx.rxstate = .waitEdge := rfl
@[simp] theorem enterTx_rxacc : s.enterTx.rxacc = 0 := rfl
@[simp] theorem enterTx_rxcnt : s.enterTx.rxcnt = 0 := rfl
@[simp] theorem enterTx_capt : s.enterTx.capt = s.capt := rfl
@[simp] theorem enterTx_rxcmp : s.enterTx.rxcmp = s.rxcmp := rfl
@[simp] theorem enterTx_txf : s.enterTx.txf = s.txf := rfl
@[simp] theorem enterTx_icf : s.enterTx.icf = false := rfl
@[simp] theorem enterTx_rxf : s.enterTx.rxf = false := rfl
@[simp] theorem enterTx_qbuf : s.enterTx.qbuf = s.qbuf := rfl
@[simp] theorem enterTx_qcount : s.enterTx.qcount = s.qcount := rfl
@[simp] theorem enterTx_qrd : s.enterTx.qrd = s.qrd := rfl
@[simp] theorem enterTx_qwr : s.enterTx.qwr = s.qwr := rfl
@[simp] theorem enterTx_cmdbuf : s.enterTx.cmdbuf = s.cmdbuf := rfl
@[simp] theorem enterTx_dstate : s.enterTx.dstate = s.dstate := rfl
@[simp] theorem enterTx_didx : s.enterTx.didx = s.didx := rfl
@[simp] theorem enterTx_rdphase : s.enterTx.rdphase = s.rdphase := rfl
@[simp] theorem enterTx_cfg : s.enterTx.cfg = s.cfg := rfl
@[simp] theorem enterTx_delayPhase : s.enterTx.delayPhase = s.delayPhase := rfl
@[simp] theorem enterTx_agenda : s.enterTx.agenda = s.agenda := rfl
@[simp] theorem enterTx_turns : s.enterTx.turns = s.turns := rfl
@[simp] theorem enterTx_resets : s.enterTx.resets = s.resets := rfl
@[simp] theorem enterTx_result : s.enterTx.result = s.result := rfl
@[simp] theorem enterTx_raised : s.enterTx.raised = s.raised := rfl

/-! ### edge -/

@[simp] theorem edge_mode : s.edge.mode = s.mode := rfl
@[simp] theorem edge_gie : s.edge.gie = s.gie := rfl
@[simp] theorem edge_dir : s.edge.dir = s.dir := rfl
@[simp] theorem edge_period : s.edge.period = s.period := rfl
@[simp] theorem edge_tcnt : s.edge.tcnt = s.tcnt := rfl
@[simp] theorem edge_delaycnt : s.edge.delaycnt = s.delaycnt := rfl
@[simp] theorem edge_txreg : s.edge.txreg = s.txreg := rfl
@[simp] theorem edge_txArmed : s.edge.txArmed = s.txArmed := rfl
@[simp] theorem edge_ioOut : s.edge.ioOut = s.ioOut := rfl
@[simp] theorem edge_ioPrev : s.edge.ioPrev = s.ioPrev := rfl
@[simp] theorem edge_rxArmed : s.edge.rxArmed = s.rxArmed := rfl
@[simp] theorem edge_rxstate : s.edge.rxstate = .sample := rfl
@[simp] theorem edge_rxacc : s.edge.rxacc = 0 := rfl
@[simp] theorem edge_rxcnt : s.edge.rxcnt = 0 := rfl
@[simp] theorem edge_capt : s.edge.capt = s.capt := rfl
@[simp] theorem edge_rxcmp : s.edge.rxcmp = sampleInstant s.capt s.period := rfl
@[simp] theorem edge_txf : s.edge.txf = s.txf := rfl
@[simp] theorem edge_icf : s.edge.icf = s.icf := rfl
@[simp] theorem edge_rxf : s.edge.rxf = s.rxf := rfl
@[simp] theorem edge_qbuf : s.edge.qbuf = s.qbuf := rfl
@[simp] theorem edge_qcount : s.edge.qcount = s.qcount := rfl
@[simp] theorem edge_qrd : s.edge.qrd = s.qrd := rfl
@[simp] theorem edge_qwr : s.edge.qwr = s.qwr := rfl
@[simp] theorem edge_cmdbuf : s.edge.cmdbuf = s.cmdbuf := rfl
@[simp] theorem edge_dstate : s.edge.dstate = s.dstate := rfl
@[simp] theorem edge_didx : s.edge.didx = s.didx := rfl
@[simp] theorem edge_rdphase : s.edge.rdphase = s.rdphase := rfl
@[simp] theorem edge_cfg : s.edge.cfg = s.cfg := rfl
@[simp] theorem edge_delayPhase : s.edge.delayPhase = s.delayPhase := rfl
@[simp] theorem edge_agenda : s.edge.agenda = s.agenda := rfl
@[simp] theorem edge_turns : s.edge.turns = s.turns := rfl
@[simp] theorem edge_resets : s.edge.resets = s.resets := rfl
@[simp] theorem edge_result : s.edge.result = s.result := rfl
@[simp] theorem edge_raised : s.edge.raised = s.raised := rfl

/-! ### endFrame -/

@[simp] theorem endFrame_mode : s.endFrame.mode = s.mode := rfl
@[simp] theorem endFrame_gie : s.endFrame.gie = s.gie := rfl
@[simp] theorem endFrame_dir : s.endFrame.dir = s.dir := rfl
@[simp] theorem endFrame_period : s.endFrame.period = s.period := rfl
@[simp] theorem endFrame_tcnt : s.endFrame.tcnt = s.tcnt := rfl
@[simp] theorem endFrame_delaycnt : s.endFrame.delaycnt = s.delaycnt := rfl
@[simp] theorem endFrame_txreg : s.endFrame.txreg = s.txreg := rfl
@[simp] theorem endFrame_txArmed : s.endFrame.txArmed = s.txArmed := rfl
@[simp] theorem endFrame_ioOut : s.endFrame.ioOut = s.ioOut := rfl
@[simp] theorem endFrame_ioPrev : s.endFrame.ioPrev = s.ioPrev := rfl
@[simp] theorem endFrame_rxArmed : s.endFrame.rxArmed = s.rxArmed := rfl
@[simp] theorem endFrame_rxstate : s.endFrame.rxstate = .waitEdge := rfl
@[simp] theorem endFrame_rxacc : s.endFrame.rxacc = 0 := rfl
@[simp] theorem endFrame_rxcnt : s.endFrame.rxcnt = 0 := rfl
@[simp] theorem endFrame_capt : s.endFrame.capt = s.capt := rfl
@[simp] theorem endFrame_rxcmp : s.endFrame.rxcmp = s.rxcmp := rfl
@[simp] theorem endFrame_txf : s.endFrame.txf = s.txf := rfl
@[simp] theorem endFrame_icf : s.endFrame.icf = s.icf := rfl
@[simp] theorem endFrame_rxf : s.endFrame.rxf = s.rxf := rfl
@[simp] theorem endFrame_qbuf : s.endFrame.qbuf = s.qbuf := rfl
@[simp] theorem endFrame_qcount : s.endFrame.qcount = s.qcount := rfl
@[simp] theorem endFrame_qrd : s.endFrame.qrd = s.qrd := rfl
@[simp] theorem endFrame_qwr : s.endFrame.qwr = s.qwr := rfl
@[simp] theorem endFrame_cmdbuf : s.endFrame.cmdbuf = s.cmdbuf := rfl
@[simp] theorem endFrame_dstate : s.endFrame.dstate = s.dstate := rfl
@[simp] theorem endFrame_didx : s.endFrame.didx = s.didx := rfl
@[simp] theorem endFrame_rdphase : s.endFrame.rdphase = s.rdphase := rfl
@[simp] theorem endFrame_cfg : s.endFrame.cfg = s.cfg := rfl
@[simp] theorem endFrame_delayPhase : s.endFrame.delayPhase = s.delayPhase := rfl
@[simp] theorem endFrame_agenda : s.endFrame.agenda = s.agenda := rfl
@[simp] theorem endFrame_turns : s.endFrame.turns = s.turns := rfl
@[simp] theorem endFrame_resets : s.endFrame.resets = s.resets := rfl
@[simp] theorem endFrame_result : s.endFrame.result = s.result := rfl
@[simp] theorem endFrame_raised : s.endFrame.raised = s.raised := rfl

/-! ### enterRx -/

@[simp] theorem enterRx_mode : s.enterRx.mode = s.mode := rfl
@[simp] theorem enterRx_gie : s.enterRx.gie = s.gie := rfl
@[simp] theorem enterRx_dir : s.enterRx.dir = .rx := rfl
@[simp] theorem enterRx_period : s.enterRx.period = s.period := rfl
@[simp] theorem enterRx_tcnt : s.enterRx.tcnt = s.tcnt := rfl
@[simp] theorem enterRx_delaycnt : s.enterRx.delaycnt = s.delaycnt := rfl
@[simp] theorem enterRx_txreg : s.enterRx.txreg = s.txreg := rfl
@[simp] theorem enterRx_txArmed : s.enterRx.txArmed = s.txArmed := rfl
@[simp] theorem enterRx_ioOut : s.enterRx.ioOut = s.ioOut := rfl
@[simp] theorem enterRx_ioPrev : s.enterRx.ioPrev = s.ioPrev := rfl
@[simp] theorem enterRx_rxArmed : s.enterRx.rxArmed = true := rfl
@[simp] theorem enterRx_rxstate : s.enterRx.rxstate = .waitEdge := rfl
@[simp] theorem enterRx_rxacc : s.enterRx.rxacc = 0 := rfl
@[simp] theorem enterRx_rxcnt : s.enterRx.rxcnt = 0 := rfl
@[simp] theorem enterRx_capt : s.enterRx.capt = s.capt := rfl
@[simp] theorem enterRx_rxcmp : s.enterRx.rxcmp = s.rxcmp := rfl
@[simp] theorem enterRx_txf : s.enterRx.txf = s.txf := rfl
@[simp] theorem enterRx_icf : s.enterRx.icf = false := rfl
@[simp] theorem enterRx_rxf : s.enterRx.rxf = false := rfl
@[simp] theorem enterRx_qbuf : s.enterRx.qbuf = s.qbuf := rfl
@[simp] theorem enterRx_qcount : s.enterRx.qcount = s.qcount := rfl
@[simp] theorem enterRx_qrd : s.enterRx.qrd = s.qrd := rfl
@[simp] theorem enterRx_qwr : s.enterRx.qwr = s.qwr := rfl
@[simp] theorem enterRx_cmdbuf : s.enterRx.cmdbuf = s.cmdbuf := rfl
@[simp] theorem enterRx_dstate : s.enterRx.dstate = s.dstate := rfl
@[simp] theorem enterRx_didx : s.enterRx.didx = s.didx := rfl
@[simp] theorem enterRx_rdphase : s.enterRx.rdphase = s.rdphase := rfl
@[simp] theorem enterRx_cfg : s.enterRx.cfg = s.cfg := rfl
@[simp] theorem enterRx_delayPhase : s.enterRx.delayPhase = s.delayPhase := rfl
@[simp] theorem enterRx_agenda : s.enterRx.agenda = s.agenda := rfl
@[simp] theorem enterRx_turns : s.enterRx.turns = s.turns := rfl
@[simp] theorem enterRx_resets : s.enterRx.resets = s.resets := rfl
@[simp] theorem enterRx_result : s.enterRx.result = s.result := rfl
@[simp] theorem enterRx_raised : s.enterRx.raised = s.raised := rfl

/-! ### advance -/

section
variable (l : Level)
@[simp] theorem advance_mode : (s.advance l).mode = s.mode := rfl
@[simp] theorem advance_gie : (s.advance l).gie = s.gie := rfl
@[simp] theorem advance_dir : (s.advance l).dir = s.dir := rfl
@[simp] theorem advance_period : (s.advance l).period = s.period := rfl
@[simp] theorem advance_tcnt : (s.advance l).tcnt = if s.periodEnd then 0 else s.tcnt + 1 := rfl
@[simp] theorem advance_delaycnt : (s.advance l).delaycnt = if s.delaycnt = 0 then 0 else s.delaycnt - 1 := rfl
@[simp] theorem advance_txreg : (s.advance l).txreg = s.txreg := rfl
@[simp] theorem advance_txArmed : (s.advance l).txArmed = s.txArmed := rfl
@[simp] theorem advance_ioOut : (s.advance l).ioOut = s.ioOut := rfl
@[simp] theorem advance_ioPrev : (s.advance l).ioPrev = l := rfl
@[simp] theorem advance_rxArmed : (s.advance l).rxArmed = s.rxArmed := rfl
@[simp] theorem advance_rxstate : (s.advance l).rxstate = s.rxstate := rfl
@[simp] theorem advance_rxacc : (s.advance l).rxacc = s.rxacc := rfl
@[simp] theorem advance_rxcnt : (s.advance l).rxcnt = s.rxcnt := rfl
@[simp] theorem advance_capt : (s.advance l).capt = s.capt := rfl
@[simp] theorem advance_rxcmp : (s.advance l).rxcmp = s.rxcmp := rfl
@[simp] theorem advance_txf : (s.advance l).txf = s.txf := rfl
@[simp] theorem advance_icf : (s.advance l).icf = s.icf := rfl
@[simp] theorem advance_rxf : (s.advance l).rxf = s.rxf := rfl
@[simp] theorem advance_qbuf : (s.advance l).qbuf = s.qbuf := rfl
@[simp] theorem advance_qcount : (s.advance l).qcount = s.qcount := rfl
@[simp] theorem advance_qrd : (s.advance l).qrd = s.qrd := rfl
@[simp] theorem advance_qwr : (s.advance l).qwr = s.qwr := rfl
@[simp] theorem advance_cmdbuf : (s.advance l).cmdbuf = s.cmdbuf := rfl
@[simp] theorem advance_dstate : (s.advance l).dstate = s.dstate := rfl
@[simp] theorem advance_didx : (s.advance l).didx = s.didx := rfl
@[simp] theorem advance_rdphase : (s.advance l).rdphase = s.rdphase := rfl
@[simp] theorem advance_cfg : (s.advance l).cfg = s.cfg := rfl
@[simp] theorem advance_delayPhase : (s.advance l).delayPhase = s.delayPhase := rfl
@[simp] theorem advance_agenda : (s.advance l).agenda = s.agenda := rfl
@[simp] theorem advance_turns : (s.advance l).turns = s.turns := rfl
@[simp] theorem advance_resets : (s.advance l).resets = s.resets := rfl
@[simp] theorem advance_result : (s.advance l).result = s.result := rfl
@[simp] theorem advance_raised : (s.advance l).raised = s.raised := rfl
end

/-! ### selectAction -/

section
variable (ins : Byte)
@[simp] theorem selectAction_mode : (s.selectAction ins).mode = s.mode := rfl
@[simp] theorem selectAction_gie : (s.selectAction ins).gie = s.gie := rfl
@[simp] theorem selectAction_dir : (s.selectAction ins).dir = s.dir := rfl
@[simp] theorem selectAction_period : (s.selectAction ins).period = s.period := rfl
@[simp] theorem selectAction_tcnt : (s.selectAction ins).tcnt = s.tcnt := rfl
@[simp] theorem selectAction_delaycnt : (s.selectAction ins).delaycnt = s.delaycnt := rfl
@[simp] theorem selectAction_txreg : (s.selectAction ins).txreg = s.txreg := rfl
@[simp] theorem selectAction_txArmed : (s.selectAction ins).txArmed = s.txArmed := rfl
@[simp] theorem selectAction_ioOut : (s.selectAction ins).ioOut = s.ioOut := rfl
@[simp] theorem selectAction_ioPrev : (s.selectAction ins).ioPrev = s.ioPrev := rfl
@[simp] theorem selectAction_rxArmed : (s.selectAction ins).rxArmed = s.rxArmed := rfl
@[simp] theorem selectAction_rxstate : (s.selectAction ins).rxstate = s.rxstate := rfl
@[simp] theorem selectAction_rxacc : (s.selectAction ins).rxacc = s.rxacc := rfl
@[simp] theorem selectAction_rxcnt : (s.selectAction ins).rxcnt = s.rxcnt := rfl
@[simp] theorem selectAction_capt : (s.selectAction ins).capt = s.capt := rfl
@[simp] theorem selectAction_rxcmp : (s.selectAction ins).rxcmp = s.rxcmp := rfl
@[simp] theorem selectAction_txf : (s.selectAction ins).txf = s.txf := rfl
@[simp] theorem selectAction_icf : (s.selectAction ins).icf = s.icf := rfl
@[simp] theorem selectAction_rxf : (s.selectAction ins).rxf = s.rxf := rfl
@[simp] theorem selectAction_qbuf : (s.selectAction ins).qbuf = s.qbuf := rfl
@[simp] theorem selectAction_qcount : (s.selectAction ins).qcount = s.qcount := rfl
@[simp] theorem selectAction_qrd : (s.selectAction ins).qrd = s.qrd := rfl
@[simp] theorem selectAction_qwr : (s.selectAction ins).qwr = s.qwr := rfl
@[simp] theorem selectAction_cmdbuf : (s.selectAction ins).cmdbuf = s.cmdbuf := rfl
@[simp] theorem selectAction_dstate : (s.selectAction ins).dstate =
    if ins = s.cfg.insCw then .cwEcho else if resp s.cfg ins = [] then .trailerTx else .bodyTx := rfl
@[simp] theorem selectAction_didx : (s.selectAction ins).didx = 0 := rfl
@[simp] theorem selectAction_rdphase : (s.selectAction ins).rdphase = s.rdphase := rfl
@[simp] theorem selectAction_cfg : (s.selectAction ins).cfg = s.cfg := rfl
@[simp] theorem selectAction_delayPhase : (s.selectAction ins).delayPhase = s.delayPhase := rfl
@[simp] theorem selectAction_agenda : (s.selectAction ins).agenda = s.agenda := rfl
@[simp] theorem selectAction_turns : (s.selectAction ins).turns = s.turns := rfl
@[simp] theorem selectAction_resets : (s.selectAction ins).resets = s.resets := rfl
@[simp] theorem selectAction_result : (s.selectAction ins).result = s.result := rfl
@[simp] theorem selectAction_raised : (s.selectAction ins).raised =
    if s.cfg.named ins then s.raised else some (.unknownInstruction ins) := rfl
end

end Sys2Proof.Machine.State
end

