-- ==== Sys2Proof/Laws/Ops.lean ====
section
/-! SUPPORT. What each shared operation can do, said once: the fields it may write, and under which condition. -/

namespace Sys2Proof.Machine.State

variable (s : State)

/-! ### Byte queue -/

/-- A put with room (43_byte_queue.md R201). -/
theorem qPut_of_room {s : State} (h : s.qcount ≠ s.cfg.qcap) (v : Half) :
    s.qPut v = (true, { s with
      qbuf := s.qbuf.set s.qwr v, qwr := (s.qwr + 1) % s.cfg.qcap, qcount := s.qcount + 1 }) := by
  simp [qPut, qFull, h]

/-- A put on a full queue (43_byte_queue.md R201). -/
theorem qPut_of_full {s : State} (h : s.qcount = s.cfg.qcap) (v : Half) : s.qPut v = (false, s) := by
  simp [qPut, qFull, h]

/-- With the read cursor in range the head is the word there. -/
theorem qHead_of_lt {s : State} (h : s.qrd < s.qbuf.length) : s.qHead = s.qbuf[s.qrd] := by
  simp [qHead, h]

/-- A delivery writes the queue or raises, and nothing else. -/
theorem deliver_frame (v : Half) : ∃ qb qw qc ra,
    s.deliver v = { s with qbuf := qb, qwr := qw, qcount := qc, raised := ra } := by
  unfold deliver
  by_cases h : s.qcount = s.cfg.qcap
  · simp only [qPut_of_full h]
    exact ⟨_, _, _, _, rfl⟩
  · simp only [qPut_of_room h]
    exact ⟨_, _, _, _, rfl⟩

/-! ### Receive engine -/

/-- RX_FINALIZE of a valid image delivers its value (42_receive.md R175). -/
theorem finalize_of_valid {s : State} (h : accValid s.acc = true) :
    s.finalize = (s.deliver ((accValue s.acc).setWidth 16)).endFrame := by
  simp [finalize, h]

/-- RX_FINALIZE of an invalid image raises FrameError (42_receive.md R175). -/
theorem finalize_of_invalid {s : State} (h : accValid s.acc = false) :
    s.finalize = (s.raise (.frameError (s.acc.setWidth 12))).endFrame := by
  simp [finalize, h]

/-- RX_FINALIZE empties the accumulator and writes the queue or raises. -/
theorem finalize_frame : ∃ qb qw qc ra,
    s.finalize = { s with
      rxacc := 0, rxcnt := 0, rxstate := .waitEdge, qbuf := qb, qwr := qw, qcount := qc, raised := ra } := by
  unfold finalize
  split
  · obtain ⟨qb, qw, qc, ra, h⟩ := s.deliver_frame ((accValue s.acc).setWidth 16)
    rw [h]
    exact ⟨_, _, _, _, rfl⟩
  · exact ⟨_, _, _, _, rfl⟩

/-- A sample that is not the last one only shifts. -/
theorem sample_of_more {s : State} {l : Level} (h : (s.rxcnt + 1).toNat ≠ s.cfg.nFrame) :
    s.sample l = s.shiftIn l := if_neg h

/-- The last sample also finalises. -/
theorem sample_of_last {s : State} {l : Level} (h : (s.rxcnt + 1).toNat = s.cfg.nFrame) :
    s.sample l = (s.shiftIn l).finalize := if_pos h

/-- RX_SAMPLE writes the accumulator, and the queue or a condition. -/
theorem sample_frame (l : Level) : ∃ acc cnt st qb qw qc ra,
    s.sample l = { s with
      rxacc := acc, rxcnt := cnt, rxstate := st, qbuf := qb, qwr := qw, qcount := qc, raised := ra } := by
  unfold sample
  split
  · obtain ⟨qb, qw, qc, ra, h⟩ := (s.shiftIn l).finalize_frame
    rw [h]
    exact ⟨_, _, _, _, _, _, _, rfl⟩
  · exact ⟨_, _, _, _, _, _, _, rfl⟩

/-- Every bit of the accumulator after a shift (42_receive.md R173). -/
theorem getLsbD_shiftIn (l : Level) (k : Nat) :
    (s.shiftIn l).rxacc.getLsbD k =
      if k < s.cfg.w + 2 then s.rxacc.getLsbD (k + 1) else decide (k = s.cfg.w + 2) && l := by
  have hw : s.cfg.w ≤ 9 := by
    unfold Config.w
    cases s.cfg.width <;> simp [DataWidth.bits]
  have key : (s.shiftIn l).rxacc.getLsbD k = (decide (k < 12) && ((decide (1 + k < s.cfg.w + 3) &&
      s.rxacc.getLsbD (1 + k)) || (decide (k < s.cfg.w + 3) && !decide (k < s.cfg.w + 2) &&
        (decide (k - (s.cfg.w + 2) = 0) && l)))) := by
    simp only [shiftIn, acc, BitVec.getLsbD_setWidth, BitVec.getLsbD_or, BitVec.getLsbD_ushiftRight,
      BitVec.getLsbD_shiftLeft, BitVec.getLsbD_ofBool]
    by_cases h0 : k - (s.cfg.w + 2) = 0
    · have h1 : k - (s.cfg.w + 2) < s.cfg.w + 3 := by omega
      simp only [h1, decide_true, Bool.true_and]
    · simp only [h0, decide_false, Bool.false_and, Bool.and_false]
  rw [key]
  by_cases h : k < s.cfg.w + 2
  · have h1 : k < 12 := by omega
    have h2 : 1 + k < s.cfg.w + 3 := by omega
    simp [h, h1, Nat.add_comm 1 k]
  · by_cases he : k = s.cfg.w + 2
    · subst he
      have h1 : s.cfg.w + 2 < 12 := by omega
      have h2 : ¬ 1 + (s.cfg.w + 2) < s.cfg.w + 3 := by omega
      simp [h1, h2]
    · have h2 : ¬ 1 + k < s.cfg.w + 3 := by omega
      have h3 : ¬ k < s.cfg.w + 3 := by omega
      simp [h, he, h2, h3]

/-! ### Transmit engine -/

/-- TX_TICK writes the line and either shifts or disarms. -/
theorem tick_frame : ∃ armed reg, s.tick = { s with
    ioOut := s.txreg.getLsbD 0, txArmed := armed, txreg := reg } := by
  unfold tick
  split <;> exact ⟨_, _, rfl⟩

/-- A load leaves the line taken and the frame armed; the receive engine is left alone when the line was
already taken (41_transmit.md R152, R153). -/
theorem loadFrame_of_tx {s : State} (h : s.dir = .tx) (code : Half) :
    s.loadFrame code = { s with txreg := code, txArmed := true } := by
  simp [loadFrame, takeLine, h]

/-- A load by a listening block takes the line first (41_transmit.md R152, R153). -/
theorem loadFrame_of_rx {s : State} (h : s.dir = .rx) (code : Half) :
    s.loadFrame code = { s.enterTx with txreg := code, txArmed := true } := by
  simp [loadFrame, takeLine, h]

/-- Every field a load may write. -/
theorem loadFrame_frame (code : Half) : ∃ armed st acc cnt ic rf out,
    s.loadFrame code = { s with
      rxArmed := armed, rxstate := st, rxacc := acc, rxcnt := cnt, icf := ic, rxf := rf, ioOut := out
      dir := .tx, txreg := code, txArmed := true } := by
  cases h : s.dir
  · rw [loadFrame_of_rx h]
    exact ⟨_, _, _, _, _, _, _, rfl⟩
  · rw [loadFrame_of_tx h]
    exact ⟨_, _, _, _, _, _, _, by rw [← h]⟩

/-- A loaded frame is sent: the line is taken, whatever its direction was. -/
@[simp] theorem loadFrame_dir (code : Half) (s : State) : (s.loadFrame code).dir = .tx := by
  cases hd : s.dir <;> simp [loadFrame, takeLine, hd]

/-- A step that contains SEND is blocked, or loads the frame and goes on. -/
theorem afterSend_cases {s t : State} {code : Half} {go : State → State}
    (h : s.afterSend code go = .next t) :
    (s.txArmed = true ∧ t = s.blocked) ∨ (s.txArmed = false ∧ t = go (s.start.loadFrame code)) := by
  unfold afterSend txBusy at h
  cases hb : s.txArmed <;> simp only [hb, if_true] at h
  · exact .inr ⟨rfl, by simpa using h.symm⟩
  · exact .inl ⟨rfl, by simpa using h.symm⟩

/-! ### READ -/

/-- RD_START, listening already. -/
theorem readStep_armed {s : State} (hr : s.rdphase = .start) (ha : s.rxArmed = true) :
    s.readStep = .moved { s with rdphase := .wait } := by
  simp [readStep, hr, ha]

/-- RD_START, the last frame not yet out. -/
theorem readStep_busy {s : State} (hr : s.rdphase = .start) (ha : s.rxArmed = false)
    (hb : s.txArmed = true) : s.readStep = .waiting := by
  simp [readStep, hr, ha, txBusy, hb]

/-- RD_START, the turnaround begins. -/
theorem readStep_turn {s : State} (hr : s.rdphase = .start) (ha : s.rxArmed = false)
    (hb : s.txArmed = false) :
    s.readStep = .moved { s with delaycnt := turnOf s.cfg s.mode, rdphase := .delay } := by
  simp [readStep, hr, ha, txBusy, hb]

/-- RD_DELAY, not over. -/
theorem readStep_delaying {s : State} (hr : s.rdphase = .delay)
    (hd : ¬ (s.delaycnt = 0 ∧ s.txArmed = false)) : s.readStep = .waiting := by
  unfold readStep
  rw [hr]
  exact if_neg hd

/-- RD_DELAY, over: the line turns round. -/
theorem readStep_listen {s : State} (hr : s.rdphase = .delay)
    (hd : s.delaycnt = 0 ∧ s.txArmed = false) :
    s.readStep = .moved { s.enterRx with rdphase := .wait } := by
  unfold readStep
  rw [hr]
  exact if_pos hd

/-- RD_WAIT, nothing received. -/
theorem readStep_empty {s : State} (hr : s.rdphase = .wait) (hq : s.qcount = 0) :
    s.readStep = .waiting := by
  simp [readStep, hr, qEmpty, hq]

/-- RD_WAIT, a word taken. -/
theorem readStep_value {s : State} (hr : s.rdphase = .wait) (hq : s.qcount ≠ 0) :
    s.readStep = .value (maskData s.cfg s.qHead) { s.qTake with rdphase := .start } := by
  simp [readStep, hr, qEmpty, hq]

/-- The reserved RDPHASE. -/
theorem readStep_reserved {s : State} (hr : s.rdphase = .reserved) : s.readStep = .stuck := by
  simp [readStep, hr]

/-- Every way a step that contains READ goes on (42_receive.md R181). -/
theorem afterRead_cases {s t : State} {go : Half → State → State} (h : s.afterRead go = .next t) :
    t = s.blocked ∨
    (s.rdphase = .start ∧ s.rxArmed = true ∧ t = { s.start with rdphase := .wait }) ∨
    (s.rdphase = .start ∧ s.rxArmed = false ∧ s.txArmed = false ∧
      t = { s.start with delaycnt := turnOf s.cfg s.mode, rdphase := .delay }) ∨
    (s.rdphase = .delay ∧ s.delaycnt = 0 ∧ s.txArmed = false ∧
      t = { s.start.enterRx with rdphase := .wait }) ∨
    (s.rdphase = .wait ∧ s.qcount ≠ 0 ∧
      t = go (maskData s.cfg s.qHead) { s.start.qTake with rdphase := .start }) := by
  unfold afterRead at h
  cases hr : s.rdphase
  · by_cases ha : s.rxArmed = true
    · rw [readStep_armed (s := s.start) hr ha] at h
      exact .inr (.inl ⟨rfl, ha, (Host.Outcome.next.inj h).symm⟩)
    · rw [Bool.not_eq_true] at ha
      by_cases hb : s.txArmed = true
      · rw [readStep_busy (s := s.start) hr ha hb] at h
        exact .inl (Host.Outcome.next.inj h).symm
      · rw [Bool.not_eq_true] at hb
        rw [readStep_turn (s := s.start) hr ha hb] at h
        exact .inr (.inr (.inl ⟨rfl, ha, hb, (Host.Outcome.next.inj h).symm⟩))
  · by_cases hd : s.delaycnt = 0 ∧ s.txArmed = false
    · rw [readStep_listen (s := s.start) hr hd] at h
      exact .inr (.inr (.inr (.inl ⟨rfl, hd.1, hd.2, (Host.Outcome.next.inj h).symm⟩)))
    · rw [readStep_delaying (s := s.start) hr hd] at h
      exact .inl (Host.Outcome.next.inj h).symm
  · by_cases hq : s.qcount = 0
    · rw [readStep_empty (s := s.start) hr hq] at h
      exact .inl (Host.Outcome.next.inj h).symm
    · rw [readStep_value (s := s.start) hr hq] at h
      exact .inr (.inr (.inr (.inr ⟨rfl, hq, (Host.Outcome.next.inj h).symm⟩)))
  · rw [readStep_reserved (s := s.start) hr] at h
    cases h

/-- A step that contains READ goes on in every named phase. -/
theorem afterRead_next {s : State} (h : s.rdphase ≠ .reserved) (go : Half → State → State) :
    ∃ t, s.afterRead go = .next t := by
  unfold afterRead
  split
  · exact ⟨_, rfl⟩
  · exact ⟨_, rfl⟩
  · exact ⟨_, rfl⟩
  · rename_i hs
    unfold readStep at hs
    split at hs
    · split at hs
      · cases hs
      · split at hs <;> cases hs
    · split at hs <;> cases hs
    · split at hs <;> cases hs
    · exact absurd ‹_› h

/-! ### CLK_TICK -/

/-- The sample compare of a receive engine that is not sampling does nothing. -/
theorem sampleCompare_unarmed {s : State} (h : s.sampleArmed = false) (l : Level) :
    s.sampleCompare l = s := by
  simp [sampleCompare, sampleMatch, sampleEnabled, h]

/-- The sample compare with no match and no pending flag does nothing. -/
theorem sampleCompare_quiet {s : State} (h : s.sampleMatch = false) (hf : s.rxf = false) (l : Level) :
    s.sampleCompare l = s := by
  simp [sampleCompare, h, hf]

/-- The sample compare that matches with events enabled runs RX_SAMPLE. -/
theorem sampleCompare_runs {s : State} (h : s.sampleMatch = true) (hg : s.gie = true) (l : Level) :
    s.sampleCompare l = State.sample l { s with rxf := false } := by
  have ha : s.rxArmed = true ∧ s.rxstate = .sample := by
    simp only [sampleMatch, sampleArmed, Bool.and_eq_true, decide_eq_true_eq] at h
    exact h.1
  simp [sampleCompare, h, sampleEnabled, sampleArmed, hg, ha]

/-- The edge capture of a receive engine that is not waiting does nothing. -/
theorem edgeCapture_unarmed {s : State} (h : s.edgeArmed = false) (l : Level) :
    s.edgeCapture l = s := by
  simp [edgeCapture, edgeSeen, edgeEnabled, h]

/-- The edge capture with no falling line and no pending flag does nothing. -/
theorem edgeCapture_quiet {s : State} {l : Level} (h : s.edgeSeen l = false) (hf : s.icf = false) :
    s.edgeCapture l = s := by
  simp [edgeCapture, h, hf]

/-- The edge capture of a falling line with events enabled runs RX_EDGE. -/
theorem edgeCapture_runs {s : State} {l : Level} (h : s.edgeSeen l = true) (hg : s.gie = true) :
    s.edgeCapture l = State.edge { s with icf := false, capt := s.tcnt } := by
  have ha : s.rxArmed = true ∧ s.rxstate = .waitEdge := by
    simp only [edgeSeen, edgeArmed, Bool.and_eq_true, decide_eq_true_eq] at h
    exact h.1.1
  simp [edgeCapture, h, edgeEnabled, edgeArmed, hg, ha]

/-- The transmit compare of a drained engine does nothing. -/
theorem transmitCompare_unarmed {s : State} (h : s.txArmed = false) : s.transmitCompare = s := by
  simp [transmitCompare, transmitMatch, tickEnabled, h]

/-- The transmit compare with no match and no pending flag does nothing. -/
theorem transmitCompare_quiet {s : State} (h : s.transmitMatch = false) (hf : s.txf = false) :
    s.transmitCompare = s := by
  simp [transmitCompare, h, hf]

/-- The transmit compare that matches with events enabled runs TX_TICK. -/
theorem transmitCompare_runs {s : State} (h : s.transmitMatch = true) (hg : s.gie = true) :
    s.transmitCompare = State.tick { s with txf := false } := by
  have ha : s.txArmed = true := by
    simp only [transmitMatch, Bool.and_eq_true] at h
    exact h.1
  simp [transmitCompare, h, tickEnabled, hg, ha]

/-- The transmit compare, where its handler may run or cannot be asked for: nothing, or one TX_TICK. -/
theorem transmitCompare_cases {s : State} (h : s.txf = false) (hg : s.gie = true ∨ s.txArmed = false) :
    s.transmitCompare = s ∨
      (s.txArmed = true ∧ s.tcnt = s.period - 1 ∧ s.transmitCompare = State.tick { s with txf := false }) := by
  by_cases hm : s.transmitMatch = true
  · have ha : s.txArmed = true ∧ s.tcnt = s.period - 1 := by simpa [transmitMatch, periodEnd] using hm
    exact .inr ⟨ha.1, ha.2, transmitCompare_runs hm (hg.resolve_right (by simp [ha.1]))⟩
  · exact .inl (transmitCompare_quiet (by simpa using hm) h)

/-- The sample compare writes the receive engine, its flag, and the queue or a condition. -/
theorem sampleCompare_frame (l : Level) : ∃ rf acc cnt st qb qw qc ra,
    s.sampleCompare l = { s with
      rxf := rf, rxacc := acc, rxcnt := cnt, rxstate := st, qbuf := qb, qwr := qw, qcount := qc
      raised := ra } := by
  unfold sampleCompare
  dsimp only
  split
  · split
    · obtain ⟨_, _, _, _, _, _, _, h⟩ := sample_frame { s with rxf := false } l
      exact ⟨false, _, _, _, _, _, _, _, h⟩
    · exact ⟨_, _, _, _, _, _, _, _, rfl⟩
  · split
    · obtain ⟨_, _, _, _, _, _, _, h⟩ := sample_frame { s with rxf := false } l
      exact ⟨false, _, _, _, _, _, _, _, h⟩
    · exact ⟨_, _, _, _, _, _, _, _, rfl⟩

/-- The edge capture writes the receive engine, its flag and the captured time. -/
theorem edgeCapture_frame (l : Level) : ∃ ic cap cmp acc cnt st,
    s.edgeCapture l = { s with
      icf := ic, capt := cap, rxcmp := cmp, rxacc := acc, rxcnt := cnt, rxstate := st } := by
  unfold edgeCapture edge
  dsimp only
  split <;> split <;> exact ⟨_, _, _, _, _, _, rfl⟩

/-- The transmit compare writes the transmit engine and its flag. -/
theorem transmitCompare_frame : ∃ tf out armed reg,
    s.transmitCompare = { s with txf := tf, ioOut := out, txArmed := armed, txreg := reg } := by
  unfold transmitCompare tick
  dsimp only
  split <;> split <;> (try split) <;> exact ⟨_, _, _, _, rfl⟩

/-- The bookkeeping, with its test spelled out (40_timing_baud.md R134). -/
theorem advance_eq (l : Level) : s.advance l = { s with
    ioPrev := l
    tcnt := if s.tcnt = s.period - 1 then 0 else s.tcnt + 1
    delaycnt := if s.delaycnt = 0 then 0 else s.delaycnt - 1 } := by
  simp [advance, periodEnd]

/-- Everything one CLK cycle may write (40_timing_baud.md R134). -/
theorem clockCycle_frame (l : Level) : ∃ rf acc cnt st qb qw qc ra ic cap cmp tf out armed reg,
    s.clockCycle l = { s with
      rxf := rf, rxacc := acc, rxcnt := cnt, rxstate := st, qbuf := qb, qwr := qw, qcount := qc
      raised := ra, icf := ic, capt := cap, rxcmp := cmp
      txf := tf, ioOut := out, txArmed := armed, txreg := reg
      ioPrev := l
      tcnt := if s.tcnt = s.period - 1 then 0 else s.tcnt + 1
      delaycnt := if s.delaycnt = 0 then 0 else s.delaycnt - 1 } := by
  obtain ⟨_, _, _, _, _, _, _, _, h1⟩ := s.sampleCompare_frame l
  obtain ⟨_, _, _, _, _, _, h2⟩ := (s.sampleCompare l).edgeCapture_frame l
  obtain ⟨_, _, _, _, h3⟩ := ((s.sampleCompare l).edgeCapture l).transmitCompare_frame
  unfold clockCycle
  rw [h3, h2, h1, advance_eq]
  exact ⟨_, _, _, _, _, _, _, _, _, _, _, _, _, _, _, rfl⟩

end Sys2Proof.Machine.State
end

