-- ==== Sys2Proof/Laws/QueueView.lean ====
section
/-! SUPPORT. The queue as a list: a put appends, a get takes the head (43_byte_queue.md R205). -/

namespace Sys2Proof.Machine.State

/-- The list depends on the queue and its capacity only. -/
theorem queueView_congr {s t : State} (hb : t.qbuf = s.qbuf) (hc : t.qcount = s.qcount) (hr : t.qrd = s.qrd)
    (hk : t.cfg = s.cfg) : t.queueView = s.queueView := by
  simp [queueView, hb, hc, hr, hk]

/-- An empty queue is the empty list. -/
theorem queueView_nil {s : State} (h : s.qcount = 0) : s.queueView = [] := by
  simp [queueView, h]

/-- A put with room appends its word. -/
theorem queueView_put {s : State} (v : Half) (hl : s.qbuf.length = s.cfg.qcap) (hc : s.qcount < s.cfg.qcap)
    (hr : s.qrd < s.cfg.qcap) (hw : s.qwr = (s.qrd + s.qcount) % s.cfg.qcap) :
    (s.qPut v).2.queueView = s.queueView ++ [v] := by
  rw [qPut_of_room (by omega)]
  have hlt : s.qwr < s.qbuf.length := by
    rw [hw, hl]
    exact Nat.mod_lt _ (by omega)
  simp only [queueView, List.range_succ, List.map_append, List.map_cons, List.map_nil]
  congr 1
  · refine List.map_congr_left fun i hi => ?_
    have hi : i < s.qcount := by simpa using hi
    have hne : s.qwr ≠ (s.qrd + i) % s.cfg.qcap := by
      rw [hw]
      rcases Nat.lt_or_ge (s.qrd + s.qcount) s.cfg.qcap with h | h
      · rw [Nat.mod_eq_of_lt h, Nat.mod_eq_of_lt (by omega)]
        omega
      · rw [Nat.mod_eq_sub_mod h, Nat.mod_eq_of_lt (by omega)]
        rcases Nat.lt_or_ge (s.qrd + i) s.cfg.qcap with h' | h'
        · rw [Nat.mod_eq_of_lt h']
          omega
        · rw [Nat.mod_eq_sub_mod h', Nat.mod_eq_of_lt (by omega)]
          omega
    simp [List.getD_eq_getElem?_getD, hne]
  · rw [← hw]
    simp [List.getD_eq_getElem?_getD, hlt]

/-- The head of the list is the word at the read cursor, and a get leaves the tail. -/
theorem queueView_take {s : State} (hl : s.qbuf.length = s.cfg.qcap) (hc : s.qcount ≠ 0)
    (hr : s.qrd < s.cfg.qcap) : s.queueView = s.qHead :: s.qTake.queueView := by
  obtain ⟨n, hn⟩ : ∃ n, s.qcount = n + 1 := ⟨s.qcount - 1, by omega⟩
  have hlt : s.qrd < s.qbuf.length := by omega
  simp only [queueView, qTake, hn, List.range_succ_eq_map, List.map_cons, List.map_map, Nat.add_sub_cancel]
  congr 1
  · simp [qHead, List.getD_eq_getElem?_getD, Nat.mod_eq_of_lt hr, hlt]
  · refine List.map_congr_left fun i _ => ?_
    simp only [Function.comp_apply, Nat.mod_add_mod]
    congr 2
    omega

end Sys2Proof.Machine.State
end

