-- ==== Sys2Proof/Laws/Invariants.lean ====
section
/-! SUPPORT. Each shared operation keeps the engine's invariant. -/

namespace Sys2Proof.Machine

open State

/-- The engine's invariant depends on these fields only. -/
theorem inv_congr {s t : State} (h : EngineInv s)
    (e : (t.cfg, t.period, t.tcnt, t.txArmed, t.txreg, t.ioOut, t.dir, t.rxArmed, t.rxstate, t.rxacc,
        t.rxcnt, t.qbuf, t.qcount, t.qrd, t.qwr, t.cmdbuf) =
      (s.cfg, s.period, s.tcnt, s.txArmed, s.txreg, s.ioOut, s.dir, s.rxArmed, s.rxstate, s.rxacc,
        s.rxcnt, s.qbuf, s.qcount, s.qrd, s.qwr, s.cmdbuf)) : EngineInv t := by
  simp only [Prod.mk.injEq] at e
  obtain ⟨e1, e2, e3, e4, e5, e6, e7, e8, e9, e10, e11, e12, e13, e14, e15, e16⟩ := e
  obtain ⟨⟩ := h
  constructor <;> simp only [*] <;> assumption

/-- Both periods of a configuration that is not refused are at least 2 (00_scope.md R6). -/
theorem periodOf_ge {c : Config} (hc : c.ok = true) (m : Mode) : 2 ≤ (periodOf c m).toNat := by
  simp [Config.ok] at hc
  have hlt : c.pHs / c.rateMult < 65536 := Nat.lt_of_le_of_lt (Nat.div_le_self _ _) hc.2.1
  cases m <;> simp [periodOf, Config.pOp] <;> omega

/-- CONFIGURE keeps the engine's invariant. -/
theorem inv_configure {s : State} (h : EngineInv s) (r : Mode) : EngineInv (s.configure r) := by
  have hp := periodOf_ge h.cfgOk r
  obtain ⟨⟩ := h
  constructor <;> simp_all
  · cases r <;> simp
  · omega

/-- A delivery keeps the engine's invariant. -/
theorem inv_deliver {s : State} (h : EngineInv s) (v : Half) : EngineInv (s.deliver v) := by
  unfold deliver
  by_cases hq : s.qcount = s.cfg.qcap
  · rw [qPut_of_full hq]; exact inv_congr h rfl
  · rw [qPut_of_room hq]
    have h1 := h.queueWrite; have h2 := h.queueCount; have h3 := h.queueLength; have h4 := h.queueRead
    obtain ⟨⟩ := h
    constructor <;> simp_all
    · omega
    · simp [Nat.add_assoc]

/-- The end of a frame keeps the engine's invariant. -/
theorem inv_endFrame {s : State} (h : EngineInv s) : EngineInv s.endFrame := by
  obtain ⟨⟩ := h
  constructor <;> simp_all [Config.nFrame]

/-- RX_FINALIZE keeps the engine's invariant. -/
theorem inv_finalize {s : State} (h : EngineInv s) : EngineInv s.finalize := by
  unfold finalize
  split
  · exact inv_endFrame (inv_deliver h _)
  · exact inv_endFrame (inv_congr h rfl)

/-- RX_SAMPLE keeps the engine's invariant where it is enabled. -/
theorem inv_sample {s : State} (h : EngineInv s) (ha : s.rxArmed = true) (hs : s.rxstate = .sample)
    (l : Level) : EngineInv (s.sample l) := by
  have hw := s.cfg.w_cases
  have hsh : ((s.acc >>> 1) ||| ((BitVec.ofBool l).setWidth (s.cfg.w + 3) <<< (s.cfg.w + 2))).toNat <
      2 ^ (s.cfg.w + 3) := BitVec.isLt _
  have hsh2 : (s.shiftIn l).rxacc.toNat < 2 ^ s.cfg.nFrame := by
    simp only [shiftIn, BitVec.toNat_setWidth, Config.nFrame]
    exact Nat.lt_of_le_of_lt (Nat.mod_le _ _) hsh
  by_cases hn : (s.rxcnt + 1).toNat = s.cfg.nFrame
  · rw [sample_of_last hn]
    have hl : EngineInv (State.endFrame (s.shiftIn l)) := by
      obtain ⟨⟩ := h
      constructor <;> simp_all [shiftIn, Config.nFrame]
    have hfin : ∀ u : State, EngineInv u.endFrame → EngineInv u.finalize := by
      intro u hu
      unfold finalize
      split
      · unfold deliver
        by_cases hq : u.qcount = u.cfg.qcap
        · rw [qPut_of_full hq]; exact inv_congr hu rfl
        · rw [qPut_of_room hq]
          have h1 := hu.queueWrite; have h2 := hu.queueCount; have h3 := hu.queueLength; have h4 := hu.queueRead
          obtain ⟨⟩ := hu
          constructor <;> simp_all
          · omega
          · simp [Nat.add_assoc]
      · exact inv_congr hu rfl
    exact hfin _ hl
  · rw [sample_of_more hn]
    have h57 := h.rxcntBelowFrame
    obtain ⟨⟩ := h
    constructor <;> simp_all [shiftIn, Config.nFrame]
    omega

/-- RX_EDGE keeps the engine's invariant where it is enabled. -/
theorem inv_edge {s : State} (h : EngineInv s) (ha : s.rxArmed = true) : EngineInv s.edge := by
  obtain ⟨⟩ := h
  constructor <;> simp_all [edge, Config.nFrame]

/-- TX_TICK keeps the engine's invariant where it is enabled. -/
theorem inv_tick {s : State} (h : EngineInv s) (ha : s.txArmed = true) : EngineInv s.tick := by
  unfold tick
  split
  · obtain ⟨⟩ := h
    constructor <;> simp_all
  · obtain ⟨⟩ := h
    constructor <;> simp_all

/-- Part 1 of CLK_TICK keeps the engine's invariant. -/
theorem inv_sampleCompare {s : State} (h : EngineInv s) (l : Level) : EngineInv (s.sampleCompare l) := by
  unfold sampleCompare
  dsimp only
  generalize hx : (if s.sampleMatch = true then ({ s with rxf := true } : State) else s) = u
  have hu : EngineInv u := by rw [← hx]; split; exacts [inv_congr h rfl, h]
  split
  · rename_i hc
    simp [sampleEnabled, sampleArmed] at hc
    exact inv_sample (s := { u with rxf := false }) (inv_congr hu rfl) hc.2.2.1 hc.2.2.2 l
  · exact hu

/-- Part 2 of CLK_TICK keeps the engine's invariant. -/
theorem inv_edgeCapture {s : State} (h : EngineInv s) (l : Level) : EngineInv (s.edgeCapture l) := by
  unfold edgeCapture
  dsimp only
  generalize hx : (if s.edgeSeen l = true then ({ s with icf := true, capt := s.tcnt } : State) else s) = u
  have hu : EngineInv u := by rw [← hx]; split; exacts [inv_congr h rfl, h]
  split
  · rename_i hc
    simp [edgeEnabled, edgeArmed] at hc
    exact inv_edge (s := { u with icf := false }) (inv_congr hu rfl) hc.2.2.1
  · exact hu

/-- Part 3 of CLK_TICK keeps the engine's invariant. -/
theorem inv_transmitCompare {s : State} (h : EngineInv s) : EngineInv s.transmitCompare := by
  unfold transmitCompare
  dsimp only
  generalize hx : (if s.transmitMatch = true then ({ s with txf := true } : State) else s) = u
  have hu : EngineInv u := by rw [← hx]; split; exacts [inv_congr h rfl, h]
  split
  · rename_i hc
    simp [tickEnabled] at hc
    exact inv_tick (s := { u with txf := false }) (inv_congr hu rfl) hc.2.2
  · exact hu

/-- The counter stays below the period (10_state.md R57). -/
theorem tcnt_next {s : State} (h : EngineInv s) :
    (if s.tcnt = s.period - 1 then (0 : Half) else s.tcnt + 1).toNat < s.period.toNat := by
  have h2 := h.tcntBelowPeriod
  have := s.period.isLt
  have hp : (s.period - 1).toNat = s.period.toNat - 1 := by
    rw [BitVec.toNat_sub_of_le]; rfl
    rw [BitVec.le_def]; simp; omega
  split
  · simp; omega
  · rename_i hh
    have : s.tcnt.toNat ≠ s.period.toNat - 1 := by rw [← hp]; exact fun x => hh (BitVec.eq_of_toNat_eq x)
    rw [BitVec.toNat_add]; simp; omega

/-- One CLK cycle keeps the engine's invariant. -/
theorem inv_clock {s : State} (h : EngineInv s) (l : Level) : EngineInv (s.clockCycle l) := by
  have h1 := inv_transmitCompare (inv_edgeCapture (inv_sampleCompare h l) l)
  unfold clockCycle
  rw [advance_eq]
  have := tcnt_next h1
  obtain ⟨⟩ := h1
  constructor <;> simp_all

/-- A load keeps the engine's invariant. -/
theorem inv_loadFrame {s : State} (h : EngineInv s) (code : Half) : EngineInv (s.start.loadFrame code) := by
  cases hd : s.dir
  · rw [loadFrame_of_rx (s := s.start) hd]
    obtain ⟨⟩ := h
    constructor <;> simp_all [Config.nFrame]
  · rw [loadFrame_of_tx (s := s.start) hd]
    obtain ⟨⟩ := h
    constructor <;> simp_all [Config.nFrame]

/-- ENTER_TX keeps the engine's invariant. -/
theorem inv_enterTx {s : State} (h : EngineInv s) : EngineInv s.enterTx := by
    obtain ⟨⟩ := h
    constructor <;> simp_all [Config.nFrame]
/-- ENTER_RX keeps the engine's invariant when the transmit engine is drained. -/
theorem inv_enterRx {s : State} (h : EngineInv s) (ht : s.txArmed = false) : EngineInv s.enterRx := by
    obtain ⟨⟩ := h
    constructor <;> simp_all [Config.nFrame]
/-- A get keeps the engine's invariant. -/
theorem inv_qTake {s : State} (h : EngineInv s) (hq : s.qcount ≠ 0) : EngineInv s.qTake := by
    have h1 := h.queueWrite; have h2 := h.queueCount; have h4 := h.queueRead
    obtain ⟨⟩ := h
    constructor <;> simp_all
    · omega
    · exact Nat.mod_lt _ (by omega)
    · congr 1; omega

/-- A step that contains SEND keeps the engine's invariant if what follows does. -/
theorem inv_afterSend {s t : State} {code : Half} {go : State → State} (h : EngineInv s)
    (hgo : ∀ u, EngineInv u → EngineInv (go u)) (ht : s.afterSend code go = .next t) : EngineInv t := by
  rcases afterSend_cases ht with ⟨-, rfl⟩ | ⟨-, rfl⟩
  · exact inv_congr h rfl
  · exact hgo _ (inv_loadFrame h code)

/-- A step that contains READ keeps the engine's invariant if what follows does. -/
theorem inv_afterRead {s t : State} {go : Half → State → State} (h : EngineInv s)
    (hgo : ∀ v u, EngineInv u → EngineInv (go v u)) (ht : s.afterRead go = .next t) : EngineInv t := by
  rcases afterRead_cases ht with rfl | ⟨-, -, rfl⟩ | ⟨-, -, -, rfl⟩ | ⟨-, -, h3, rfl⟩ | ⟨-, hq, rfl⟩
  · exact inv_congr h rfl
  · exact inv_congr h rfl
  · exact inv_congr h rfl
  · exact inv_congr (inv_enterRx h h3) rfl
  · exact hgo _ _ (inv_congr (inv_qTake h hq) rfl)

/-- A wire command keeps the engine's invariant. -/
theorem inv_runCommand {s t : State} {ins : Byte} (h : EngineInv s) (ht : s.runCommand ins = .next t) :
    EngineInv t := by
  unfold runCommand at ht
  split at ht <;> cases ht <;> exact inv_congr h rfl

/-- A canonical CMDBUF keeps the engine's invariant. -/
theorem inv_cmdbuf {s : State} (h : EngineInv s) {m : Memory} (hm : Memory.wf m = true) :
    EngineInv { s with cmdbuf := m } := by
  obtain ⟨⟩ := h
  constructor <;> simp_all

/-- A dispatcher step keeps the engine's invariant if its body does. -/
theorem inv_inState {s t : State} {d : DState} {f : State → StepOutcome} (h : EngineInv s)
    (ht : s.inState d f = .next t) (hf : f s = .next t → EngineInv t) : EngineInv t := by
  unfold inState at ht
  split at ht
  · exact hf ht
  · cases ht; exact inv_congr h rfl

/-- RESET gives the engine's invariant. -/
theorem inv_resetRegisters {s : State} (h : EngineInv s) : EngineInv s.resetRegisters := by
  have hp := periodOf_ge h.cfgOk .handshake
  have hok := h.cfgOk
  have hq : 1 ≤ s.cfg.qcap := by have := hok; simp [Config.ok] at this; omega
  constructor <;> simp [resetRegisters, resetWith, hok, periodOf, Memory.wf_nil, Config.nFrame] at *
  · omega
  · omega

end Sys2Proof.Machine
end

