-- ==== Sys2Proof/Laws/RunInvariants.lean ====
section
/-! SUPPORT. The shared operations of the block's own agents keep the run invariant: a CLK cycle, RESET, a blocked micro-step, a load of a frame, READ's micro-steps, and a change of the dispatcher's own fields. -/

namespace Sys2Proof.Machine

open State

/-! ### A CLK cycle -/

/-- The receive compare leaves RXF clear where its handler may run or cannot be asked for. -/
theorem sampleCompare_rxf {s : State} (h : s.rxf = false) (hg : s.gie = true ∨ s.sampleArmed = false)
    (l : Level) : (s.sampleCompare l).rxf = false := by
  by_cases hm : s.sampleMatch = true
  · have ha : s.sampleArmed = true := by
      simp [sampleMatch] at hm
      exact hm.1
    rcases hg with hg | hg
    · rw [sampleCompare_runs hm hg]
      obtain ⟨_, _, _, _, _, _, _, h⟩ := sample_frame { s with rxf := false } l
      rw [h]
    · simp [ha] at hg
  · rw [sampleCompare_quiet (by simpa using hm) h]
    exact h

/-- The edge capture leaves ICF clear where its handler may run or cannot be asked for. -/
theorem edgeCapture_icf {s : State} {l : Level} (h : s.icf = false)
    (hg : s.gie = true ∨ s.edgeArmed = false) : (s.edgeCapture l).icf = false := by
  by_cases hm : s.edgeSeen l = true
  · have ha : s.edgeArmed = true := by
      simp [edgeSeen] at hm
      exact hm.1.1
    rcases hg with hg | hg
    · rw [edgeCapture_runs hm hg]
      rfl
    · simp [ha] at hg
  · rw [edgeCapture_quiet (by simpa using hm) h]
    exact h

/-- While the engine samples, RXCMP stays below PERIOD across the edge capture. -/
theorem edgeCapture_rxcmp {s : State} {l : Level} (h : s.icf = false)
    (hg : s.gie = true ∨ s.edgeArmed = false) (hp : 2 ≤ s.period.toNat)
    (hs : s.rxstate = .sample → s.rxcmp.toNat < s.period.toNat) :
    (s.edgeCapture l).rxstate = .sample → (s.edgeCapture l).rxcmp.toNat < s.period.toNat := by
  by_cases hm : s.edgeSeen l = true
  · have ha : s.edgeArmed = true := by
      simp [edgeSeen] at hm
      exact hm.1.1
    rcases hg with hg | hg
    · rw [edgeCapture_runs hm hg]
      have := s.period.isLt
      have : (s.tcnt.toNat + s.period.toNat / 2) % s.period.toNat < s.period.toNat :=
        Nat.mod_lt _ (by omega)
      simp [edge, sampleInstant]
      omega
    · simp [ha] at hg
  · rw [edgeCapture_quiet (by simpa using hm) h]
    exact hs

/-- The transmit compare leaves TXF clear where its handler may run or cannot be asked for. -/
theorem transmitCompare_txf {s : State} (h : s.txf = false) (hg : s.gie = true ∨ s.txArmed = false) :
    s.transmitCompare.txf = false := by
  by_cases hm : s.transmitMatch = true
  · have ha : s.txArmed = true := by
      simp [transmitMatch] at hm
      exact hm.1
    rcases hg with hg | hg
    · rw [transmitCompare_runs hm hg]
      obtain ⟨_, _, h⟩ := tick_frame { s with txf := false }
      rw [h]
    · simp [ha] at hg
  · rw [transmitCompare_quiet (by simpa using hm) h]
    exact h

/-- The transmit compare arms nothing. -/
theorem transmitCompare_txArmed {s : State} (h : s.txArmed = false) :
    s.transmitCompare.txArmed = false := by
  rw [transmitCompare_unarmed h]
  exact h

/-- RX_FINALIZE leaves the queue as it is or appends one word of `W` bits. -/
theorem finalize_view {s : State} (hl : s.qbuf.length = s.cfg.qcap) (hc : s.qcount ≤ s.cfg.qcap)
    (hr : s.qrd < s.cfg.qcap) (hw : s.qwr = (s.qrd + s.qcount) % s.cfg.qcap) :
    s.finalize.queueView = s.queueView ∨
      ∃ x : Half, x.toNat < 2 ^ s.cfg.w ∧ s.finalize.queueView = s.queueView ++ [x] := by
  cases h : accValid s.acc
  · rw [finalize_of_invalid h]
    exact .inl (queueView_congr rfl rfl rfl rfl)
  · rw [finalize_of_valid h]
    unfold deliver
    by_cases hq : s.qcount = s.cfg.qcap
    · rw [qPut_of_full hq]
      exact .inl (queueView_congr rfl rfl rfl rfl)
    · have hput := queueView_put ((accValue s.acc).setWidth 16) hl (Nat.lt_of_le_of_ne hc hq) hr hw
      refine .inr ⟨(accValue s.acc).setWidth 16, ?_, ?_⟩
      · rw [BitVec.toNat_setWidth]
        exact Nat.lt_of_le_of_lt (Nat.mod_le _ _) (accValue s.acc).isLt
      · rw [← hput, qPut_of_room hq]
        exact queueView_congr rfl rfl rfl rfl

/-- RX_SAMPLE does so too; it is stated against a state `s` with the same queue. -/
theorem sample_view {s u : State} (hi : EngineInv s) (l : Level) (e1 : u.qbuf = s.qbuf)
    (e2 : u.qcount = s.qcount) (e3 : u.qrd = s.qrd) (e4 : u.qwr = s.qwr) (e5 : u.cfg = s.cfg) :
    (u.sample l).queueView = s.queueView ∨
      ∃ x : Half, x.toNat < 2 ^ s.cfg.w ∧ (u.sample l).queueView = s.queueView ++ [x] := by
  have hv : u.queueView = s.queueView := queueView_congr e1 e2 e3 e5
  by_cases hn : (u.rxcnt + 1).toNat = u.cfg.nFrame
  · have hf := finalize_view (s := u.shiftIn l)
      (show u.qbuf.length = u.cfg.qcap by rw [e1, e5]; exact hi.queueLength)
      (show u.qcount ≤ u.cfg.qcap by rw [e2, e5]; exact hi.queueCount)
      (show u.qrd < u.cfg.qcap by rw [e3, e5]; exact hi.queueRead)
      (show u.qwr = (u.qrd + u.qcount) % u.cfg.qcap by rw [e4, e3, e2, e5]; exact hi.queueWrite)
    rw [sample_of_last hn]
    rw [show (u.shiftIn l).queueView = u.queueView from queueView_congr rfl rfl rfl rfl, hv,
      show (u.shiftIn l).cfg = u.cfg from rfl, e5] at hf
    exact hf
  · rw [sample_of_more hn, ← hv]
    exact .inl (queueView_congr rfl rfl rfl rfl)

/-- The receive compare leaves the queue as it is or appends one word of `W` bits. -/
theorem sampleCompare_view {s : State} (hi : EngineInv s) (l : Level) :
    (s.sampleCompare l).queueView = s.queueView ∨
      ∃ x : Half, x.toNat < 2 ^ s.cfg.w ∧ (s.sampleCompare l).queueView = s.queueView ++ [x] := by
  unfold sampleCompare
  dsimp only
  split <;> split <;>
    first
    | exact sample_view hi l rfl rfl rfl rfl rfl
    | exact .inl (queueView_congr rfl rfl rfl rfl)

/-- A CLK cycle keeps the run invariant. -/
theorem run_clock {s : State} (h : RunInv s) (l : Level) : RunInv (s.start.clockCycle l) := by
  have hE := inv_clock (s := s.start) (inv_congr (s := s) h.toEngineInv rfl) l
  have hp : 2 ≤ s.period.toNat := by
    rw [h.periodByMode]
    exact periodOf_ge h.cfgOk _
  have hg : s.gie = true ∨ (s.rxArmed = false ∧ s.txArmed = false) := by
    cases hg : s.gie
    · have hb := h.maskedIsBoot.1 hg
      exact .inr ⟨h.powerOnIsDeaf (by simp [poweringOn, hb]), h.bootIsQuiet hb⟩
    · exact .inl rfl
  obtain ⟨rf, acc, cnt, st, qb, qw, qc, ra, h1⟩ := s.start.sampleCompare_frame l
  obtain ⟨ic, cap, cmp, acc2, cnt2, st2, h2⟩ := (s.start.sampleCompare l).edgeCapture_frame l
  obtain ⟨tf, out, armed, reg, h3⟩ := ((s.start.sampleCompare l).edgeCapture l).transmitCompare_frame
  have f1 : rf = false := by
    have := sampleCompare_rxf (s := s.start) h.flagsClear.2.2
      (hg.imp id fun x => by simp [sampleArmed, x.1]) l
    rw [h1] at this
    exact this
  have hgate : (s.start.sampleCompare l).gie = true ∨ (s.start.sampleCompare l).edgeArmed = false :=
    hg.imp (fun x => by rw [h1]; exact x) fun x => by rw [h1]; simp [edgeArmed, x.1]
  have hicf : (s.start.sampleCompare l).icf = false := by rw [h1]; exact h.flagsClear.2.1
  have f2 : ic = false := by
    have := edgeCapture_icf (l := l) hicf hgate
    rw [h2] at this
    exact this
  have f2' : st2 = .sample → cmp.toNat < s.period.toNat := by
    have hper : (s.start.sampleCompare l).period = s.period := by rw [h1]; rfl
    have hsub : (s.start.sampleCompare l).rxstate = .sample →
        (s.start.sampleCompare l).rxcmp.toNat < (s.start.sampleCompare l).period.toNat := by
      by_cases hm : s.start.sampleMatch = true
      · have : s.rxstate = .sample := by
          simp only [sampleMatch, sampleArmed, Bool.and_eq_true] at hm
          exact of_decide_eq_true hm.1.2
        intro _
        rw [h1]
        exact h.rxcmpBelowPeriod this
      · rw [sampleCompare_quiet (s := s.start) (by simpa using hm) h.flagsClear.2.2]
        exact h.rxcmpBelowPeriod
    have := edgeCapture_rxcmp (l := l) hicf hgate (by rw [hper]; exact hp) hsub
    rw [h2, h1] at this
    exact this
  have f3 : tf = false := by
    have := transmitCompare_txf (s := (s.start.sampleCompare l).edgeCapture l)
      (by rw [h2, h1]; exact h.flagsClear.1)
      (hg.imp (fun x => by rw [h2, h1]; exact x) fun x => by rw [h2, h1]; exact x.2)
    rw [h3] at this
    exact this
  have f3' : s.txArmed = false → armed = false := by
    intro hx
    have := transmitCompare_txArmed (s := (s.start.sampleCompare l).edgeCapture l)
      (by rw [h2, h1]; exact hx)
    rw [h3] at this
    exact this
  have hv := sampleCompare_view (s := s.start) (inv_congr (s := s) h.toEngineInv rfl) l
  rw [show s.start.queueView = s.queueView from queueView_congr rfl rfl rfl rfl] at hv
  have hq : ∀ x ∈ (s.start.clockCycle l).queueView, x.toNat < 2 ^ s.cfg.w := by
    rw [show (s.start.clockCycle l).queueView = (s.start.sampleCompare l).queueView by
      unfold clockCycle; rw [h3, h2]; exact queueView_congr rfl rfl rfl rfl]
    rcases hv with hv | ⟨x, hx, hv⟩
    · rw [hv]
      exact h.queueWidth
    · intro y hy
      rw [hv, List.mem_append, List.mem_singleton] at hy
      exact hy.elim (h.queueWidth y) fun hy => hy ▸ hx
  have ht : s.start.clockCycle l = { s.start with
      rxf := false, rxacc := acc2, rxcnt := cnt2, rxstate := st2, qbuf := qb, qwr := qw, qcount := qc
      raised := ra, icf := false, capt := cap, rxcmp := cmp, txf := false, ioOut := out
      txArmed := armed, txreg := reg, ioPrev := l
      tcnt := if s.tcnt = s.period - 1 then 0 else s.tcnt + 1
      delaycnt := if s.delaycnt = 0 then 0 else s.delaycnt - 1 } := by
    unfold clockCycle
    rw [advance_eq, h3, h2, h1, f1, f2, f3]
    rfl
  rw [ht] at hq hE ⊢
  exact
    { toEngineInv := hE
      agendaIsAgents := h.agendaIsAgents
      maskedIsBoot := h.maskedIsBoot
      flagsClear := ⟨rfl, rfl, rfl⟩
      bootIsQuiet := fun hb => f3' (h.bootIsQuiet hb)
      switchIsDrained := fun hb => f3' (h.switchIsDrained hb)
      modeByState := h.modeByState
      periodByMode := h.periodByMode
      powerOnIsDeaf := h.powerOnIsDeaf
      dstateNamed := h.dstateNamed
      rdphaseNamed := h.rdphaseNamed
      readByState := h.readByState
      delayIsDrained := fun hb => ⟨f3' (h.delayIsDrained hb).1, (h.delayIsDrained hb).2⟩
      waitIsArmed := h.waitIsArmed
      rxcmpBelowPeriod := f2'
      didxRange := h.didxRange
      classByte := h.classByte
      cwByte := h.cwByte
      bufferZeroed := h.bufferZeroed
      queueWidth := hq }

/-! ### RESET and blocked micro-steps -/

/-- RESET keeps the run invariant. -/
theorem run_reset {s : State} (h : RunInv s) : RunInv s.resetRegisters := by
  refine ⟨inv_resetRegisters h.toEngineInv, h.agendaIsAgents, ?_, ?_, ?_, ?_, ?_, ?_, ?_, ?_, ?_, ?_, ?_,
    ?_, ?_, ?_, ?_, ?_, ?_, ?_⟩ <;>
    simp [resetRegisters, resetWith, poweringOn, reading, inCommand, didxInRange, queueView, periodOf]

/-- A micro-step that is not enabled keeps the run invariant. -/
theorem run_blocked {s : State} (h : RunInv s) : RunInv s.blocked := by
  exact { h with toEngineInv := inv_congr h.toEngineInv rfl }

/-! ### Sending -/

/-- The frame of a load, where nothing is pending: whatever the direction was, the receive engine is
disarmed and empty afterwards. -/
theorem loadFrame_disarms {s : State} (h : RunInv s) (code : Half) : ∃ acc cnt out,
    s.start.loadFrame code = { s.start with
      rxArmed := false, rxstate := .waitEdge, rxacc := acc, rxcnt := cnt, icf := false, rxf := false
      ioOut := out, dir := .tx, txreg := code, txArmed := true } := by
  cases hd : s.dir
  · exact ⟨0, 0, true, loadFrame_of_rx (s := s.start) hd code⟩
  · have ha := h.sendingIsDeaf hd
    refine ⟨s.rxacc, s.rxcnt, s.ioOut, ?_⟩
    rw [loadFrame_of_tx (s := s.start) hd]
    simp [hd, ha, h.disarmedWaits ha, h.flagsClear]

/-- A dispatcher step that sends keeps the run invariant, if what follows the load in it changes DSTATE
and DIDX only, within the ranges the invariant gives them. -/
theorem run_send {s t : State} {code : Half} {go : State → State} (h : RunInv s)
    (ht : s.afterSend code go = .next t) (hr : s.reading = false) (hb : s.dstate ≠ .boot)
    (hgo : ∀ u : State, u = s.start.loadFrame code → ∃ d x,
      go u = { u with dstate := d, didx := x } ∧ d ≠ .boot ∧ d ≠ .modeSwitch ∧ (∀ k, d ≠ .reserved k) ∧
      ({ u with dstate := d, didx := x } : State).poweringOn = s.poweringOn ∧
      ({ u with dstate := d, didx := x } : State).didxInRange ∧
      (({ u with dstate := d, didx := x } : State).inCommand = true → s.inCommand = true) ∧
      (d = .cwEcho ∨ d = .cwRx → s.dstate = .cwEcho ∨ s.dstate = .cwRx) ∧ d ≠ .idle) : RunInv t := by
  have hE := inv_loadFrame h.toEngineInv code
  rcases afterSend_cases ht with ⟨-, rfl⟩ | ⟨-, rfl⟩
  · exact run_blocked h
  · obtain ⟨d, x, e, d1, d1', d2, d3, d4, d5, d6, d7⟩ := hgo _ rfl
    obtain ⟨acc, cnt, out, hl⟩ := loadFrame_disarms h code
    have hph : s.rdphase = .start := by
      by_contra hne
      have := h.readByState hne
      rw [hr] at this
      cases this
    rw [e]
    rw [hl] at hE d3 d4 d5 ⊢
    exact
      { toEngineInv := inv_congr hE rfl
        agendaIsAgents := h.agendaIsAgents
        maskedIsBoot := ⟨fun hg => absurd (h.maskedIsBoot.1 hg) hb, fun hg => absurd hg d1⟩
        flagsClear := ⟨h.flagsClear.1, rfl, rfl⟩
        bootIsQuiet := fun hb => absurd hb d1
        switchIsDrained := fun hb => absurd hb d1'
        modeByState := h.modeByState.trans (iff_of_eq (congrArg (· = true) d3.symm))
        periodByMode := h.periodByMode
        powerOnIsDeaf := fun _ => rfl
        dstateNamed := d2
        rdphaseNamed := h.rdphaseNamed
        readByState := fun hne => absurd hph hne
        delayIsDrained := fun hb => nomatch hph.symm.trans hb
        waitIsArmed := fun hb => nomatch hph.symm.trans hb
        rxcmpBelowPeriod := fun hb => nomatch hb
        didxRange := d4
        classByte := fun hb => h.classByte (d5 hb)
        cwByte := fun hb => h.cwByte (d6 hb)
        bufferZeroed := fun hb =>
          hb.elim (fun hb => h.bufferZeroed (.inl (d3 ▸ hb))) fun hb => absurd hb d7
        queueWidth := h.queueWidth }

/-! ### READ and the dispatcher's own fields -/

/-- READ's micro-steps in a step that contains it keep the run invariant, if what follows its return
does. -/
theorem run_read {s t : State} {go : Half → State → State} (h : RunInv s)
    (ht : s.afterRead go = .next t) (hr : s.reading = true)
    (hgo : ∀ v u, u = { s.start.qTake with rdphase := .start } → RunInv u → RunInv (go v u)) :
    RunInv t := by
  have hpo : s.poweringOn = false := by
    simp [reading] at hr
    rcases hr with hr | hr | hr <;> simp [poweringOn, hr]
  rcases afterRead_cases ht with rfl | ⟨-, h2, rfl⟩ | ⟨-, h2, h3, rfl⟩ | ⟨-, -, h3, rfl⟩ | ⟨-, hq, rfl⟩
  · exact run_blocked h
  · exact { h with
      toEngineInv := inv_congr h.toEngineInv rfl
      rdphaseNamed := by simp
      readByState := fun _ => hr
      delayIsDrained := by simp
      waitIsArmed := fun _ => h2 }
  · exact { h with
      toEngineInv := inv_congr h.toEngineInv rfl
      rdphaseNamed := by simp
      readByState := fun _ => hr
      delayIsDrained := fun _ => ⟨h3, h2⟩
      waitIsArmed := by simp }
  · exact { h with
      toEngineInv := inv_congr (inv_enterRx (s := s) h.toEngineInv h3) rfl
      flagsClear := ⟨h.flagsClear.1, rfl, rfl⟩
      powerOnIsDeaf := fun hx => absurd (show s.poweringOn = true from hx) (by simp [hpo])
      rdphaseNamed := by simp
      readByState := fun _ => hr
      delayIsDrained := by simp
      waitIsArmed := fun _ => rfl
      rxcmpBelowPeriod := by simp }
  · have hv := queueView_take h.queueLength hq h.queueRead
    exact hgo _ _ rfl { h with
      toEngineInv := inv_congr (inv_qTake (s := s) h.toEngineInv hq) rfl
      rdphaseNamed := by simp
      readByState := by simp
      delayIsDrained := by simp
      waitIsArmed := by simp
      queueWidth := fun x hx => h.queueWidth x (by rw [hv]; exact List.mem_cons_of_mem _ hx) }

/-- A change of CMDBUF, DSTATE and DIDX only keeps the run invariant, within the ranges it gives them. -/
theorem run_disp {u : State} {m : Memory} {d : DState} {x : Half} (h : RunInv u)
    (hw : Memory.wf m = true) (hph : u.rdphase = .start) (hb : u.dstate ≠ .boot) (hd : d ≠ .boot)
    (hm : d = .modeSwitch → u.txArmed = false)
    (hn : ∀ k, d ≠ .reserved k)
    (hpo : ({ u with cmdbuf := m, dstate := d, didx := x } : State).poweringOn = u.poweringOn)
    (hx : ({ u with cmdbuf := m, dstate := d, didx := x } : State).didxInRange)
    (hc : ({ u with cmdbuf := m, dstate := d, didx := x } : State).inCommand = true →
      Memory.read m 0 = 0x53#8)
    (hcw : d = .cwEcho ∨ d = .cwRx → Memory.read m 1 = u.cfg.insCw)
    (hz : u.poweringOn = true ∨ d = .idle → m = []) :
    RunInv { u with cmdbuf := m, dstate := d, didx := x } :=
  { h with
    toEngineInv := inv_congr (inv_cmdbuf h.toEngineInv hw) rfl
    maskedIsBoot := ⟨fun hg => absurd (h.maskedIsBoot.1 hg) hb, fun hg => absurd hg hd⟩
    bootIsQuiet := fun hg => absurd hg hd
    switchIsDrained := hm
    modeByState := h.modeByState.trans (by rw [hpo])
    powerOnIsDeaf := fun hp => h.powerOnIsDeaf (by rw [← hpo]; exact hp)
    dstateNamed := hn
    readByState := fun hne => absurd hph hne
    didxRange := hx
    classByte := hc
    cwByte := hcw
    bufferZeroed := fun hp => hz (hp.imp (fun hp => by rw [← hpo]; exact hp) id) }

/-- The power-on states, one by one. -/
theorem poweringOn_iff (s : State) : s.poweringOn = true ↔
    s.dstate = .boot ∨ s.dstate = .atrTx ∨ s.dstate = .atrDrain ∨ s.dstate = .modeSwitch := by
  simp [poweringOn]

end Sys2Proof.Machine
end

