-- ==== Sys2Proof/Laws/Runs.lean ====
section
/-! SUPPORT. Short runs, one instruction at a time and in pieces. -/

namespace Sys2Proof.Machine

/-- The empty run. -/
@[simp] theorem runAnswers_nil (s : State) : runAnswers [] s = some ([], s) := rfl

/-- The first instruction of a run. -/
theorem runAnswers_cons {i : Instr} {is : List Instr} {s t : State} (h : exec i s = .next t) :
    runAnswers (i :: is) s = (runAnswers is t).map fun p => (t.result :: p.1, p.2) := by
  simp [runAnswers, h]

/-- The empty run. -/
@[simp] theorem runInstrs_nil (s : State) : runInstrs [] s = some s := rfl

/-- The first instruction of a run. -/
theorem runInstrs_cons {i : Instr} {is : List Instr} {s t : State} (h : exec i s = .next t) :
    runInstrs (i :: is) s = runInstrs is t := by
  simp [runInstrs, runAnswers, h, Option.map_map, Function.comp_def]

/-- A run in two pieces. -/
theorem runInstrs_append {is : List Instr} (js : List Instr) {s t : State} (h : runInstrs is s = some t) :
    runInstrs (is ++ js) s = runInstrs js t := by
  induction is generalizing s with
  | nil =>
    cases h
    rfl
  | cons i is ih =>
    cases he : exec i s with
    | next u =>
      rw [List.cons_append, runInstrs_cons he]
      rw [runInstrs_cons he] at h
      exact ih h
    | fault r => simp [runInstrs, runAnswers, he] at h
    | refused r => simp [runInstrs, runAnswers, he] at h

end Sys2Proof.Machine
end

