-- ==== Sys2Proof/Laws/Step.lean ====
section
/-! SUPPORT. What a step adds around the meaning of its instruction: the turn it takes off the agenda or off the free turns, and nothing else. -/

namespace Sys2Proof.Machine

/-- With no DELAY in progress the dispatcher runs its program. -/
theorem State.dispatcherInstr_start {s : State} (h : s.delayPhase = .start) :
    s.dispatcherInstr = s.programInstr := by
  simp [State.dispatcherInstr, h]

/-- A DELAY in progress holds the dispatcher at its second micro-step (40_timing_baud.md R138). -/
theorem State.dispatcherInstr_wait {s : State} {n : BitVec 32} (h : s.delayPhase = .wait n) :
    s.dispatcherInstr = some (.delay n) := by
  simp [State.dispatcherInstr, h]

/-- Only operations of the foreground task are ever held (00_scope.md R9). -/
theorem State.held_of_not_foreground (s : State) {i : Instr} (h : foreground i = false) :
    s.held i = false := by
  simp [State.held, h]

/-- A DELAY in progress holds every foreground operation but itself (40_timing_baud.md R138). -/
theorem State.held_wait {s : State} {n : BitVec 32} {i : Instr} (h : s.delayPhase = .wait n)
    (hi : foreground i = true) : s.held i = decide (i ≠ .delay n) := by
  simp [State.held, h, hi]

/-- With no DELAY and no READ in progress nothing is held. -/
theorem State.held_idle {s : State} (i : Instr) (h : s.delayPhase = .start) (hr : s.rdphase = .start) :
    s.held i = false := by
  simp [State.held, h, hr]

/-- Taking a turn writes the agenda and the turn counter only. -/
theorem State.takeTurn_frame (s : State) : ∃ ag n, s.takeTurn.2 = { s with agenda := ag, turns := n } := by
  unfold State.takeTurn
  split <;> exact ⟨_, _, rfl⟩

/-- A fetched instruction runs from the state without its turn. -/
theorem State.fetchTurn_state {s u : State} {t : Turn} {i : Instr} (h : State.fetchTurn t s = .instr i u) :
    u = s := by
  unfold State.fetchTurn at h
  split at h
  · split at h <;> cases h
    rfl
  · split at h
    · split at h <;> cases h
      rfl
    · cases h

/-- A held operation leaves the state without its turn. -/
theorem State.fetchTurn_held {s u : State} {t : Turn} (h : State.fetchTurn t s = .held u) : u = s := by
  unfold State.fetchTurn at h
  split at h
  · split at h <;> cases h
  · split at h
    · split at h <;> cases h
      rfl
    · cases h

/-- A fetch writes the agenda and the turn counter only. -/
theorem State.fetch_frame {s u : State} {i : Instr} (h : s.fetch = .instr i u) :
    ∃ ag n, u = { s with agenda := ag, turns := n } := by
  rw [State.fetchTurn_state h]
  exact s.takeTurn_frame

/-- A step that goes on ran the fetched instruction, or only took the turn of a held one. -/
theorem step_cases {s t : State} (h : step s = .next t) :
    s.cfg.ok = true ∧ ((∃ i u, s.fetch = .instr i u ∧ exec i u = .next t) ∨
      (s.fetch = .held s.takeTurn.2 ∧ t = s.takeTurn.2.blocked)) := by
  unfold step at h
  split at h
  · refine ⟨‹_›, ?_⟩
    split at h
    · exact .inl ⟨_, _, ‹_›, h⟩
    · rename_i u hu
      cases h
      rw [hu, State.fetchTurn_held hu]
      exact .inr ⟨rfl, rfl⟩
    · cases h
    · cases h
  · cases h

/-- A step in a configuration that is not refused runs the fetched instruction. -/
theorem step_of_fetch {s u : State} {i : Instr} (hc : s.cfg.ok = true) (h : s.fetch = .instr i u) :
    step s = exec i u := by
  simp [step, hc, h]

end Sys2Proof.Machine
end

