-- ==== Sys2Proof/Tests/Slice0.lean ====
section
/-! SUPPORT. Tests against the vectors of 95_test_vectors.md, words written out from 30_encoding.md, ill-formed terms, and a witness for the hypotheses of every statement. -/

namespace Sys2Proof.Tests

open Sys2Proof Sys2Proof.Machine

/-! ### Small states -/

/-- The state an instruction leads to, if it does not stop. -/
def ran (i : Instr) (s : State) : Option State :=
  match exec i s with
  | .next t => some t
  | .fault _ => none
  | .refused _ => none

/-- The state a step leads to, if it does not stop. -/
def stepped (s : State) : Option State :=
  match step s with
  | .next t => some t
  | .fault _ => none
  | .refused _ => none

/-- The reference build with `W = 9`. -/
def nine : State := State.resetWith { Config.reference with width := .nine }

/-- The end state of program P1, TCNT as in vector T7: listening at the operating rate. -/
def listening : State := { State.reset with
  mode := .operating, gie := true, period := 93, tcnt := 10, rxArmed := true
  dstate := .idle, didx := 16, rdphase := .wait }

/-- A receive engine in the middle of the frame of 0x53, after the four samples 0 1 0 1 of R183. -/
def sampling : State := { listening with
  ioPrev := true, rxstate := .sample, tcnt := 56, rxcmp := 56, rxacc := 0x500, rxcnt := 4 }

/-- Before the last sample of the frame of 0x53. -/
def lastSample : State := { sampling with rxacc := 0x4D4, rxcnt := 10 }

/-- Program P1, after its step 2: the frame of 0xA0 in flight at the handshake rate. -/
def sending : State := { State.reset with
  gie := true, dir := .tx, txreg := 0xFFF4, txArmed := true, ioOut := true
  dstate := .atrTx, didx := 1 }

/-- A line taken and drained, between two frames of the ATR. -/
def drained : State := { sending with txreg := 0xFFFF, txArmed := false }

/-- Listening with one word in the queue. -/
def queued (v : Half) : State := { listening with qbuf := [v, 0, 0, 0], qcount := 1, qwr := 1 }

/-- A full queue, vector Q1 after its step 4. -/
def full : State := { listening with qbuf := [0x53, 0x70, 0x00, 0x00], qcount := 4 }

/-- At DISPATCH with a captured header. -/
def captured (ins : Byte) : State := { listening with
  dstate := .dispatch, didx := 5, rdphase := .start
  cmdbuf := Memory.write [(0, 0x53#8)] 1 ins }

/-! ### WellFormed: an ill-formed term for each check -/

theorem test_wf_unknown_named : Instr.wf .reference (.unknown 0x70 0 0 6) = false := by decide
theorem test_wf_unknown_open : Instr.wf .reference (.unknown 0x76 0 0 0) = false := by decide
theorem test_wf_encode_wide : Instr.wf .reference (.encode 0x100) = false := by decide
theorem test_wf_encode_wide_nine : Instr.wf nine.cfg (.encode 0x200) = false := by decide
theorem test_wf_decode_wide : Instr.wf .reference (.decode 0x800) = false := by decide
theorem test_wf_decode_wide_nine : Instr.wf nine.cfg (.decode 0x1000) = false := by decide

/-- Bytes that are no instruction are rejected by name. -/
theorem test_decode_rejects :
    (decode .reference []).toOption = none ∧ (decode .reference [0x04#8]).toOption = none ∧
    (decode .reference [0x53#8, 0x70#8]).toOption = none ∧
    (decode .reference [0x02#8, 2#8]).toOption = none ∧
    (decode .reference [0x10#8, 0x00#8, 0x01#8]).toOption = none := by decide

/-! ### Decoding: words written from 30_encoding.md R107, R109, R118 -/

/-- CMD40: CLA, INS, P1, P2, LEN, first byte highest. -/
theorem test_decode_commands :
    decodeTableWord 40 0b0101001101110000000000010000001000000110 = some (.serial 1 2 6) ∧
    decodeTableWord 40 0b0101001101111000000000000000000000000111 = some (.seed 0 0 7) ∧
    decodeTableWord 40 0b0101001101110110000000010000001000000011 = some (.auth 1 2 3) ∧
    decodeTableWord 40 0b0101001101110010000000010000001000000011 = some (.msg 1 2 3) ∧
    decodeTableWord 40 0b0101001101111010000000010000001000000011 = some (.mbox 1 2 3) ∧
    decodeTableWord 40 0b0101001101110100000000000000000000100000 = some (.cw 0 0 0x20) ∧
    decodeTableWord 40 0b0101001101111111000000000000000000000000 = some (.unknown 0x7F 0 0 0) := by
  decide

theorem test_decode_timing :
    decodeTableWord 8 0b00000001 = some (.configure .handshake) ∧
    decodeTableWord 8 0b00000010 = some (.clkTick false) ∧
    decodeTableWord 8 0b00000011 = some (.delay 0) := by decide

theorem test_decode_transmit :
    decodeTableWord 8 0b00010000 = some (.encode 0) ∧ decodeTableWord 8 0b00010001 = some (.send 0) ∧
    decodeTableWord 8 0b00010010 = some .enterTx ∧ decodeTableWord 8 0b00010011 = some (.sendByte 0) ∧
    decodeTableWord 8 0b00010100 = some .txTick := by decide

theorem test_decode_receive :
    decodeTableWord 8 0b00100000 = some .rxEdge ∧ decodeTableWord 8 0b00100001 = some (.rxSample false) ∧
    decodeTableWord 8 0b00100010 = some .rxFinalize ∧ decodeTableWord 8 0b00100011 = some (.decode 0) ∧
    decodeTableWord 8 0b00100100 = some .enterRx ∧ decodeTableWord 8 0b00100101 = some .read := by decide

theorem test_decode_queue :
    decodeTableWord 8 0b00110000 = some (.qPut 0) ∧ decodeTableWord 8 0b00110001 = some .qGetWait ∧
    decodeTableWord 8 0b00110010 = some .qGetNowait := by decide

theorem test_decode_dispatcher :
    decodeTableWord 8 0b01000000 = some .boot ∧ decodeTableWord 8 0b01000001 = some .atrTx ∧
    decodeTableWord 8 0b01000010 = some .atrDrain ∧ decodeTableWord 8 0b01000011 = some .modeSwitch ∧
    decodeTableWord 8 0b01000100 = some .idle ∧ decodeTableWord 8 0b01000101 = some .header ∧
    decodeTableWord 8 0b01000110 = some .dispatch ∧ decodeTableWord 8 0b01000111 = some .bodyTx ∧
    decodeTableWord 8 0b01001000 = some .cwEcho ∧ decodeTableWord 8 0b01001001 = some .cwRx ∧
    decodeTableWord 8 0b01001010 = some .trailerTx ∧ decodeTableWord 8 0b01001011 = some .clear := by
  decide

theorem test_decode_reset : decodeTableWord 8 0b01010000 = some .reset := by decide

/-- The operand bytes after an operation's number, least significant first (log 6). -/
theorem test_decode_operands :
    (decode .reference [0x01#8, 1#8]).toOption = some (.configure .operating, []) ∧
    (decode .reference [0x03#8, 0xBA#8, 0#8, 0#8, 0x80#8]).toOption = some (.delay 0x800000BA, []) ∧
    (decode .reference [0x11#8, 0x6A#8, 0xFE#8, 0x14#8]).toOption = some (.send 0xFE6A, [0x14#8]) ∧
    (decode .reference [0x23#8, 0x6A#8, 0x06#8]).toOption = some (.decode 0x66A, []) := by decide

/-- A table word that is placed is the next step's instruction. -/
theorem test_step_runs_the_placed_word :
    stepped (State.reset.withFetchWord 8 0x41) = ran .atrTx { State.reset with dstate := .atrTx } ∧
    (stepped (State.reset.withFetchWord 40 0x5370000006)).map (·.dstate) = some .bodyTx ∧
    (stepped (State.reset.withFetchWord 40 0x537F000000)).map (·.raised) =
      some (some (.unknownInstruction 0x7F)) := by decide

/-! ### Timing and baud control (95_test_vectors.md, 2.1) -/

/-- T1. -/
theorem test_configure_handshake : ran (.configure .handshake) State.reset =
    some { State.reset with gie := true, period := 372 } := by decide

/-- T2, T3. -/
theorem test_configure_operating :
    (ran (.configure .operating) { sending with tcnt := 300 }).map
      (fun t => (t.period, t.tcnt, t.txreg, t.txArmed)) = some (93, 0, 0xFFFF, true) := by decide

/-- T6: the transmit compare at the end of the bit period. -/
theorem test_clk_tick_transmits :
    (ran (.clkTick true) { sending with period := 93, tcnt := 92, txreg := 0xFE6A }).map
      (fun t => (t.ioOut, t.txreg, t.tcnt)) = some (false, 0xFF35, 0) := by decide

/-- T7: the start edge. -/
theorem test_clk_tick_captures :
    (ran (.clkTick false) listening).map
      (fun t => (t.capt, t.rxcmp, t.rxstate, t.ioPrev, t.tcnt)) =
      some (10, 56, .sample, false, 11) := by decide

/-- T11, T12: the load, and the second micro-step at once for a count of 0. -/
theorem test_delay_micro_steps :
    (ran (.delay 186) State.reset).map (fun t => (t.delaycnt, t.delayPhase)) = some (186, .wait 186) ∧
    ((ran (.delay 0) State.reset).bind (ran (.delay 0))).map (fun t => (t.result, t.delayPhase)) =
      some (.done, .start) := by decide

/-- R138, "holds the dispatcher": neither its own turn nor a called READ loads DELAYCNT anew. -/
theorem test_delay_holds_the_dispatcher :
    (stepped { drained with dstate := .idle, delayPhase := .wait 186, delaycnt := 5
                            agenda := [.agent .dispatcher] }).map
      (fun t => (t.result, t.delaycnt, t.rdphase)) = some (.blocked, 5, .start) ∧
    (stepped { drained with dstate := .idle, delayPhase := .wait 186, delaycnt := 5
                            agenda := [.call [0x25#8]] }).map
      (fun t => (t.result, t.delaycnt, t.rdphase)) = some (.blocked, 5, .start) := by decide

/-! ### Transmit engine (2.2) -/

theorem test_encode_eight :
    (ran (.encode 0x53) State.reset).map (·.result) = some (.code 0xFE6A) ∧
    (ran (.encode 0x01) State.reset).map (·.result) = some (.code 0xFCFE) := by decide

theorem test_encode_nine :
    (ran (.encode 0x1FF) nine).map (·.result) = some (.code 0xF800) ∧
    (ran (.encode 0x053) nine).map (·.result) = some (.code 0xFCD6) := by decide

/-- X2. -/
theorem test_send_takes_the_line :
    (ran (.send 0xFFEC) { sampling with rxacc := 0x280 }).map
      (fun t => (t.rxArmed, t.rxcnt, t.rxacc, t.dir, t.txreg, t.txArmed)) =
      some (false, 0, 0, .tx, 0xFFEC, true) := by decide

/-- X3. -/
theorem test_send_blocks : ran (.send 0x1234) sending = some { sending with result := .blocked } := by
  decide

/-- R153: the queue and the half-received frame. -/
theorem test_enter_tx : (ran .enterTx { sampling with ioOut := false }).map
    (fun t => (t.ioOut, t.ioOe, t.rxacc)) = some (true, true, 0) := by decide

/-- X7, X8. -/
theorem test_send_byte :
    (ran (.sendByte 0x90) drained).map (·.txreg) = some 0xFFEC ∧
    (ran (.sendByte 0x53) nine).map (·.txreg) = some 0xFCD6 := by decide

/-- X4. -/
theorem test_tx_tick :
    ((ran .txTick { sending with txreg := 0xFFFE }).map fun t => (t.ioOut, t.txreg, t.txArmed)) =
      some (false, 0xFFFF, true) ∧
    ((ran .txTick { sending with txreg := 0xFFFF }).map fun t => (t.ioOut, t.txreg, t.txArmed)) =
      some (true, 0xFFFF, false) := by decide

/-! ### Receive engine (2.3) -/

/-- T10. -/
theorem test_rx_edge :
    (ran .rxEdge { listening with period := 372, capt := 371 }).map (·.rxcmp) = some 185 ∧
    (ran .rxEdge { listening with capt := 47 }).map (·.rxcmp) = some 0 := by decide

/-- RX1, the fifth and the last sample. -/
theorem test_rx_sample_shifts :
    (ran (.rxSample false) sampling).map (fun t => (t.rxacc, t.rxcnt)) = some (0x280, 5) := by decide

/-- R183: the frame of 0x53 is complete. -/
theorem test_rx_sample_finalises :
    (ran (.rxSample true) lastSample).map (fun t => (t.raised, t.qcount, t.rxcnt)) =
      some (none, 1, 0) := by decide

/-- E1. -/
theorem test_rx_finalize_frame_error :
    (ran .rxFinalize { sampling with rxacc := 0x46A }).map
      (fun t => (t.raised, t.qcount, t.rxacc, t.rxstate)) =
      some (some (.frameError 0x46A), 0, 0, .waitEdge) := by decide

/-- E2. -/
theorem test_rx_finalize_overflow :
    (ran .rxFinalize { full with rxacc := 0x66A }).map (fun t => (t.raised, t.qbuf, t.qcount)) =
      some (some (.queueOverflow 0x53), full.qbuf, 4) := by decide

theorem test_decode_valid :
    (ran (.decode 0x402) State.reset).map (·.result) = some (.decoded true 0x7F) ∧
    (ran (.decode 0xCD6) nine).map (·.result) = some (.decoded true 0x053) := by decide

theorem test_decode_invalid :
    (ran (.decode 0x46A) State.reset).map (·.result) = some (.decoded false 0x53) ∧
    (ran (.decode 0x7FF) State.reset).map (·.result) = some (.decoded false 0x00) := by decide

/-- RX4, last part. -/
theorem test_enter_rx : (ran .enterRx { drained with icf := true }).map
    (fun t => (t.dir, t.rxArmed, t.icf, t.ioOe)) = some (.rx, true, false, false) := by decide

/-- RX7. -/
theorem test_read_masks : (ran .read (queued 0x153)).map (fun t => (t.result, t.qcount, t.rdphase)) =
    some (.value 0x53, 0, .start) := by decide

/-- RX6, and RX4's first step. -/
theorem test_read_starts :
    (ran .read { sending with rdphase := .start }).map (·.result) = some .blocked ∧
    (ran .read drained).map (fun t => (t.rdphase, t.delaycnt)) = some (.delay, 0) := by decide

/-! ### Byte queue (2.4) -/

/-- Q1, steps 5 and 7. -/
theorem test_q_put :
    (ran (.qPut 6) full).map (fun t => (t.result, t.qcount)) = some (.putOk false, 4) ∧
    (ran (.qPut 6) { full with qcount := 3, qrd := 1 }).map (fun t => (t.qbuf, t.qwr, t.qcount)) =
      some ([6, 0x70, 0, 0], 1, 4) := by decide

/-- Q1, steps 6 and 13. -/
theorem test_q_get_wait :
    (ran .qGetWait full).map (fun t => (t.result, t.qcount, t.qrd)) = some (.word 0x53, 3, 1) ∧
    (ran .qGetWait listening).map (·.result) = some .blocked := by decide

/-- Q1, steps 11 and 12. -/
theorem test_q_get_nowait :
    (ran .qGetNowait (queued 6)).map (fun t => (t.result, t.qcount)) = some (.tryWord true 6, 0) ∧
    (ran .qGetNowait listening).map (·.result) = some (.tryWord false 0) := by decide

/-! ### Dispatcher (2.5 and programs P1 to P5) -/

/-- P1, step 1. -/
theorem test_boot : (ran .boot State.reset).map (fun t => (t.period, t.gie, t.dstate, t.mode)) =
    some (372, true, .atrTx, .handshake) := by decide

/-- P1, steps 2 and 4. -/
theorem test_atr_tx :
    (ran .atrTx { State.reset with dstate := .atrTx }).map (fun t => (t.txreg, t.didx, t.ioOe)) =
      some (0xFFF4, 1, true) ∧
    (ran .atrTx { drained with didx := 15 }).map (fun t => (t.txreg, t.didx, t.dstate)) =
      some (0xFE14, 16, .atrDrain) := by decide

/-- P1, step 5. -/
theorem test_atr_drain :
    (ran .atrDrain { sending with dstate := .atrDrain }).map (·.dstate) = some .atrDrain ∧
    (ran .atrDrain { drained with dstate := .atrDrain }).map (·.dstate) = some .modeSwitch := by decide

/-- P1, step 6. -/
theorem test_mode_switch : (ran .modeSwitch { drained with dstate := .modeSwitch }).map
    (fun t => (t.mode, t.period, t.dstate)) = some (.operating, 93, .idle) := by decide

/-- DISP8 and P2, event 2. -/
theorem test_idle :
    (ran .idle (queued 0)).map (fun t => (t.dstate, t.cmdbuf)) = some (.idle, []) ∧
    (ran .idle (queued 0x53)).map (fun t => (t.dstate, t.cmdbuf, t.didx)) =
      some (.header, [(0, 0x53#8)], 1) := by decide

/-- P2, event 3. -/
theorem test_header :
    (ran .header { queued 0x07 with dstate := .header, didx := 4, cmdbuf := [(0, 0x53#8), (1, 0x78#8)] }).map
      (fun t => (t.dstate, t.didx, t.cmdbuf)) =
      some (.dispatch, 5, [(0, 0x53#8), (1, 0x78#8), (4, 0x07#8)]) := by decide

/-- E3. -/
theorem test_dispatch : (ran .dispatch (captured 0x7F)).map (fun t => (t.dstate, t.didx, t.raised)) =
    some (.trailerTx, 0, some (.unknownInstruction 0x7F)) := by decide

/-- P2, event 5, and its last byte. -/
theorem test_body_tx :
    (ran .bodyTx { captured 0x78 with dstate := .bodyTx, didx := 0 }).map
      (fun t => (t.txreg, t.didx, t.dstate)) = some (0xFE00, 1, .bodyTx) ∧
    (ran .bodyTx { captured 0x78 with dstate := .bodyTx, didx := 7 }).map
      (fun t => (t.didx, t.dstate)) = some (0, .trailerTx) := by decide

/-- P5, event 2. -/
theorem test_cw_echo : (ran .cwEcho { captured 0x74 with dstate := .cwEcho }).map
    (fun t => (t.txreg, t.didx, t.dstate)) = some (0xFFA2, 0, .cwRx) := by decide

/-- P5, event 4: payload bytes 26 and 31. -/
theorem test_cw_rx :
    (ran .cwRx { queued 0x1A with dstate := .cwRx, didx := 26 }).map (fun t => (t.cmdbuf, t.didx)) =
      some ([(31, 0x1A#8)], 27) ∧
    (ran .cwRx { queued 0x1F with dstate := .cwRx, didx := 31 }).map
      (fun t => (t.cmdbuf, t.didx, t.dstate)) = some ([], 0, .trailerTx) := by decide

/-- P2, event 6. -/
theorem test_trailer_tx :
    (ran .trailerTx { drained with dstate := .trailerTx, didx := 0 }).map
      (fun t => (t.txreg, t.didx, t.dstate)) = some (0xFFEC, 1, .trailerTx) ∧
    (ran .trailerTx { drained with dstate := .trailerTx, didx := 1 }).map
      (fun t => (t.txreg, t.dstate)) = some (0xFFFE, .clear) := by decide

/-- P2, event 7. -/
theorem test_clear : (ran .clear { captured 0x78 with dstate := .clear }).map
    (fun t => (t.cmdbuf, t.didx, t.dstate)) = some ([], 0, .idle) := by decide

/-- DISP1 to DISP7: where each command's action begins. -/
theorem test_commands :
    (ran (.serial 0 0 6) (captured 0x70)).map (·.dstate) = some .bodyTx ∧
    (ran (.seed 0 0 7) (captured 0x78)).map (·.dstate) = some .bodyTx ∧
    (ran (.auth 0 0 0) (captured 0x76)).map (·.dstate) = some .trailerTx ∧
    (ran (.msg 0 0 0) (captured 0x72)).map (·.dstate) = some .bodyTx ∧
    (ran (.mbox 0 0 0) (captured 0x7A)).map (·.dstate) = some .trailerTx ∧
    (ran (.cw 0 0 32) (captured 0x74)).map (·.dstate) = some .cwEcho ∧
    (ran (.unknown 0x7F 0 0 0) (captured 0x7F)).map (·.dstate) = some .trailerTx := by decide

/-! ### Reset (2.7) -/

/-- RS1, from the middle of a frame. -/
theorem test_reset : (ran .reset { sampling with qcount := 3 }).map
    (fun t => (t.dstate, t.gie, t.rxArmed, t.rxcnt, t.qcount, t.period)) =
    some (.boot, false, false, 0, 0, 372) := by decide

/-- RS2. -/
theorem test_reset_is_quiet : ran (.clkTick false) State.reset =
    some { State.reset with ioPrev := false, tcnt := 1 } := by decide

/-! ### Witnesses: the hypotheses of each statement hold together

Each theorem is about the statement whose name follows `witness_`; a letter after it counts its clauses. -/

/-- EngineInv, clause by clause, in a form `decide` reads. -/
abbrev engineClauses (s : State) : Prop :=
  (s.cfg.ok = true ∧ (s.period = periodOf s.cfg .handshake ∨ s.period = periodOf s.cfg .operating) ∧
    s.tcnt.toNat < s.period.toNat ∧ (s.txArmed = false → s.txreg = 0xFFFF#16) ∧
    (s.txArmed = false → s.ioOut = true) ∧ (s.dir = .tx → s.rxArmed = false) ∧
    (s.txArmed = true → s.dir = .tx) ∧ (s.rxArmed = false → s.rxstate = .waitEdge)) ∧
  (s.rxstate = .waitEdge → s.rxacc = 0 ∧ s.rxcnt = 0) ∧ s.rxcnt.toNat < s.cfg.nFrame ∧
    s.rxacc.toNat < 2 ^ s.cfg.nFrame ∧ s.qbuf.length = s.cfg.qcap ∧ s.qcount ≤ s.cfg.qcap ∧
    s.qrd < s.cfg.qcap ∧ s.qwr = (s.qrd + s.qcount) % s.cfg.qcap ∧ Memory.wf s.cmdbuf = true

theorem engineInv_of {s : State} (h : engineClauses s) : EngineInv s :=
  ⟨h.1.1, h.1.2.1, h.1.2.2.1, h.1.2.2.2.1, h.1.2.2.2.2.1, h.1.2.2.2.2.2.1, h.1.2.2.2.2.2.2.1,
    h.1.2.2.2.2.2.2.2, h.2.1, h.2.2.1, h.2.2.2.1, h.2.2.2.2.1, h.2.2.2.2.2.1, h.2.2.2.2.2.2.1,
    h.2.2.2.2.2.2.2.1, h.2.2.2.2.2.2.2.2⟩

/-- The rest of RunInv but for the agenda, DIDX and the queue's words, clause by clause, in a form `decide` reads. -/
abbrev runClauses (s : State) : Prop :=
  ((s.gie = false ↔ s.dstate = .boot) ∧ (s.txf = false ∧ s.icf = false ∧ s.rxf = false) ∧
    (s.dstate = .boot → s.txArmed = false) ∧ (s.mode = .handshake ↔ s.poweringOn = true) ∧
    s.period = periodOf s.cfg s.mode ∧ (s.poweringOn = true → s.rxArmed = false) ∧
    (∀ k, s.dstate ≠ .reserved k) ∧ s.rdphase ≠ .reserved ∧
    (s.dstate = .modeSwitch → s.txArmed = false)) ∧
  (s.rdphase ≠ .start → s.reading = true) ∧
    (s.rdphase = .delay → s.txArmed = false ∧ s.rxArmed = false) ∧
    (s.rdphase = .wait → s.rxArmed = true) ∧ (s.rxstate = .sample → s.rxcmp.toNat < s.period.toNat) ∧
    (s.inCommand = true → Memory.read s.cmdbuf 0 = 0x53#8) ∧
    (s.dstate = .cwEcho ∨ s.dstate = .cwRx → Memory.read s.cmdbuf 1 = s.cfg.insCw) ∧
    (s.poweringOn = true ∨ s.dstate = .idle → s.cmdbuf = [])

theorem runInv_of {s : State} {q : List Half} (he : EngineInv s) (ha : s.agenda = [])
    (hd : s.didxInRange) (hv : s.queueView = q) (hq : ∀ x ∈ q, x.toNat < 2 ^ s.cfg.w)
    (h : runClauses s) : RunInv s :=
  { he with
    agendaIsAgents := fun _ ht => nomatch ha ▸ ht
    maskedIsBoot := h.1.1, flagsClear := h.1.2.1, bootIsQuiet := h.1.2.2.1, modeByState := h.1.2.2.2.1
    periodByMode := h.1.2.2.2.2.1, powerOnIsDeaf := h.1.2.2.2.2.2.1, dstateNamed := h.1.2.2.2.2.2.2.1
    rdphaseNamed := h.1.2.2.2.2.2.2.2.1, switchIsDrained := h.1.2.2.2.2.2.2.2.2, readByState := h.2.1, delayIsDrained := h.2.2.1
    waitIsArmed := h.2.2.2.1, rxcmpBelowPeriod := h.2.2.2.2.1, didxRange := hd
    classByte := h.2.2.2.2.2.1, cwByte := h.2.2.2.2.2.2.1, bufferZeroed := h.2.2.2.2.2.2.2
    queueWidth := hv ▸ hq }

/-- Before the last byte of a header. -/
def lastHeader : State := { queued 0x07 with
  dstate := .header, didx := 4, cmdbuf := [(0, 0x53#8), (1, 0x78#8)] }

/-- The frame of `sending` at its last tick. -/
def lastTick : State := { sending with txreg := 0xFFFF }

/-- An engine that has just seen a start edge. -/
def edgeSeen : State := { listening with rxstate := .sample }

/-- A Q_PUT called from outside. -/
def called : State := { listening with agenda := [.call [0x30#8, 0x53#8, 0x00#8]] }

theorem engine_of_small_states : ∀ s ∈ [listening, sending, drained, lastHeader, lastTick, edgeSeen, called],
    engineClauses s := by decide +kernel

theorem run_of_small_states : ∀ s ∈ [listening, sending, drained, lastHeader, lastTick], runClauses s := by
  decide +kernel

theorem queueView_lastHeader : lastHeader.queueView = [0x07] := by
  simp [State.queueView, lastHeader, queued, listening, State.reset, State.resetWith, Config.reference]

theorem lastHeader_width : lastHeader.cfg.width = .eight := rfl

theorem engineInv_listening : EngineInv listening :=
  engineInv_of (engine_of_small_states _ (.head _))

theorem runInv_listening : RunInv listening :=
  runInv_of engineInv_listening rfl trivial
    (State.queueView_nil rfl) (by simp)
    (run_of_small_states _ (.head _))

theorem engineInv_sending : EngineInv sending :=
  engineInv_of (engine_of_small_states _ (.tail _ (.head _)))

theorem runInv_sending : RunInv sending :=
  runInv_of engineInv_sending rfl (by decide : (1#16).toNat < 16)
    (State.queueView_nil rfl) (by simp)
    (run_of_small_states _ (.tail _ (.head _)))

theorem engineInv_drained : EngineInv drained :=
  engineInv_of (engine_of_small_states _ (.tail _ (.tail _ (.head _))))

theorem runInv_drained : RunInv drained :=
  runInv_of engineInv_drained rfl (by decide : (1#16).toNat < 16)
    (State.queueView_nil rfl) (by simp)
    (run_of_small_states _ (.tail _ (.tail _ (.head _))))

theorem engineInv_lastHeader : EngineInv lastHeader :=
  engineInv_of (engine_of_small_states _ (.tail _ (.tail _ (.tail _ (.head _)))))

theorem runInv_lastHeader : RunInv lastHeader :=
  runInv_of engineInv_lastHeader rfl (by decide : 1 ≤ (4#16).toNat ∧ (4#16).toNat ≤ 4)
    queueView_lastHeader (by simp [Config.w, lastHeader_width, DataWidth.bits])
    (run_of_small_states _ (.tail _ (.tail _ (.tail _ (.head _)))))

theorem engineInv_lastTick : EngineInv lastTick :=
  engineInv_of (engine_of_small_states _ (.tail _ (.tail _ (.tail _ (.tail _ (.head _))))))

theorem runInv_lastTick : RunInv lastTick :=
  runInv_of engineInv_lastTick rfl (by decide : (1#16).toNat < 16)
    (State.queueView_nil rfl) (by simp)
    (run_of_small_states _ (.tail _ (.tail _ (.tail _ (.tail _ (.head _))))))

theorem engineInv_edgeSeen : EngineInv edgeSeen :=
  engineInv_of (engine_of_small_states _ (.tail _ (.tail _ (.tail _ (.tail _ (.tail _ (.head _)))))))

theorem engineInv_called : EngineInv called :=
  engineInv_of (engine_of_small_states _ (.tail _ (.tail _ (.tail _ (.tail _ (.tail _ (.tail _ (.head _))))))))

theorem witness_EncodedInstructionDecodes :
    Config.ok .reference = true ∧ Config.ok nine.cfg = true ∧ Instr.wf .reference (.encode 0xFF) = true ∧
    Instr.wf nine.cfg (.decode 0xFFF) = true ∧ Instr.wf .reference (.unknown 0x7F 0 0 0) = true := by decide

theorem witness_DecodedBytesAreTheEncoding :
    decode .reference [0x13#8, 0x90#8, 0x14#8] = .ok (.sendByte 0x90, [0x14#8]) := by rfl

/-- A call that runs, and calls that a DELAY and a READ in progress hold back. -/
theorem witness_StepRunsTheDecodedInstruction_a :
    (∃ s : State, s.cfg.ok = true ∧ s.agenda = .call [0x14#8] :: [] ∧
      decode s.cfg [0x14#8] = .ok (.txTick, []) ∧ s.held .txTick = false) ∧
    (∃ s : State, s.cfg.ok = true ∧ s.agenda = .call [0x25#8] :: [] ∧
      decode s.cfg [0x25#8] = .ok (.read, []) ∧ s.delayPhase = .wait 186 ∧ s.held .read = true) ∧
    (listening.rdphase = .wait ∧ listening.held .clear = true ∧ listening.held .read = false) :=
  ⟨⟨{ sending with agenda := [.call [0x14#8]] }, by decide, rfl, rfl, by decide⟩,
    ⟨{ sending with agenda := [.call [0x25#8]], delayPhase := .wait 186 }, by decide, rfl, rfl, rfl,
      by decide⟩, by decide⟩

theorem witness_StepRunsTheDecodedInstruction_b :
    ∃ s : State, s.cfg.ok = true ∧ s.agenda = .agent .dispatcher :: [] ∧
      State.agentInstr s .dispatcher = some .idle :=
  ⟨{ listening with agenda := [.agent .dispatcher] }, by decide, rfl, rfl⟩

/-- Whatever the free turn is, reset's instruction of it exists. -/
theorem witness_StepRunsTheDecodedInstruction_c :
    State.reset.cfg.ok = true ∧ State.reset.agenda = [] ∧
      ∃ i, State.agentInstr State.reset (Config.freeTurn State.reset.turns) = some i := by
  refine ⟨by decide, rfl, ?_⟩
  cases Config.freeTurn State.reset.turns <;> exact ⟨_, rfl⟩

theorem witness_AgentsRunTheirOperations :
    (∃ s : State, s.delayPhase = .wait 186) ∧
    (sending.delayPhase = .start ∧ sending.dstate ≠ .dispatch ∧ ∀ k, sending.dstate ≠ .reserved k) ∧
    ((captured 0x7F).delayPhase = .start ∧ (captured 0x7F).dstate = .dispatch ∧
      Memory.read (captured 0x7F).cmdbuf 0 = 0x53#8) :=
  ⟨⟨{ sending with delayPhase := .wait 186 }, rfl⟩, by decide, by decide⟩

/-- One configuration for each way to break a constraint, at the boundary. -/
theorem witness_BadConfigurationIsRefused :
    [{ Config.reference with pHs := 3 }, { Config.reference with pHs := 65536 },
     { Config.reference with rateMult := 1 }, { Config.reference with pHs := 373 },
     { Config.reference with rateMult := 372 }, { Config.reference with turnHs := 2 ^ 32 },
     { Config.reference with turnOp := 2 ^ 32 }, { Config.reference with qcap := 0 },
     { Config.reference with atr := [] }, { Config.reference with insAuth := 0x70#8 },
     { Config.reference with insCw := 0x7F#8 }].all (fun c => decide
      (¬ (4 ≤ c.pHs ∧ c.pHs < 65536) ∨ c.rateMult < 2 ∨ c.pHs % c.rateMult ≠ 0 ∨
        c.pHs / c.rateMult < 2 ∨ 4294967296 ≤ c.turnHs ∨ 4294967296 ≤ c.turnOp ∨
        c.qcap = 0 ∨ c.atr.length ≠ 16 ∨
        ¬ [0x70#8, 0x78#8, 0x7F#8, c.insAuth, c.insMsg, c.insMbox, c.insCw].Nodup)) = true := by decide

theorem witness_ClkTickWithoutAnEvent :
    (State.reset.txf = false ∧ State.reset.icf = false ∧ State.reset.rxf = false) ∧
    ¬ (State.reset.rxArmed = true ∧ State.reset.rxstate = .sample ∧ State.reset.tcnt = State.reset.rxcmp) ∧
    ¬ (State.reset.rxArmed = true ∧ State.reset.rxstate = .waitEdge ∧ State.reset.ioPrev = true ∧
      true = false) ∧
    ¬ (State.reset.txArmed = true ∧ State.reset.tcnt = State.reset.period - 1) := by decide

theorem witness_ClkTickRunsTheTransmitTick : ∃ s : State,
    s.gie = true ∧ s.rxArmed = false ∧ s.txArmed = true ∧ s.tcnt = s.period - 1 :=
  ⟨{ sending with tcnt := 371 }, by decide⟩

theorem witness_ClkTickCapturesTheStartEdge :
    listening.gie = true ∧ listening.rxArmed = true ∧ listening.rxstate = .waitEdge ∧
    listening.ioPrev = true ∧ listening.txArmed = false := by decide

/-- A sample before the last one; and the last one on a line that is already low, and on a high one. -/
theorem witness_ClkTickTakesASample :
    (sampling.gie = true ∧ sampling.rxArmed = true ∧ sampling.rxstate = .sample ∧
      sampling.tcnt = sampling.rxcmp ∧ sampling.txArmed = false ∧
      sampling.rxcnt.toNat + 1 < sampling.cfg.w + 3) ∧
    (lastSample.gie = true ∧ lastSample.rxArmed = true ∧ lastSample.rxstate = .sample ∧
      lastSample.tcnt = lastSample.rxcmp ∧ lastSample.txArmed = false ∧
      lastSample.rxcnt.toNat + 1 = lastSample.cfg.w + 3 ∧ lastSample.icf = false) ∧
    (lastSample.ioPrev = false ∨ true = true) ∧
    ({ lastSample with ioPrev := false } : State).ioPrev = false := by decide

theorem witness_LastSampleThenEdgeInOneCycle :
    lastSample.gie = true ∧ lastSample.rxArmed = true ∧ lastSample.rxstate = .sample ∧
    lastSample.tcnt = lastSample.rxcmp ∧ lastSample.rxcnt.toNat + 1 = lastSample.cfg.w + 3 ∧
    lastSample.ioPrev = true ∧ lastSample.txArmed = false := by decide

/-- The fourth clause at its boundary: one CLK cycle into a DELAY of two. -/
theorem witness_DelayHasTwoMicroSteps : State.reset.delayPhase = .start ∧
    (∃ s : State, s.delayPhase = .wait 0 ∧ s.delaycnt = 0) ∧
    (∃ s : State, s.delayPhase = .wait 1 ∧ s.delaycnt ≠ 0) ∧
    (ran (.delay 2) { State.reset with agenda := [.agent .dispatcher, .agent (.clock true)] }).bind
      (fun u => (countedRun 2 u).map fun p => (p.1, p.2.resets)) = some (1, State.reset.resets) :=
  ⟨rfl, ⟨{ State.reset with delayPhase := .wait 0 }, by decide⟩,
    ⟨{ State.reset with delayPhase := .wait 1, delaycnt := 1 }, by decide⟩, by decide⟩

theorem witness_TimerCountsModuloPeriod : EngineInv listening := runInv_listening.toEngineInv

/-- Both clauses: the last CLK cycle before the tick, and the tick's own, of a frame and of its end. -/
theorem witness_TransmitTicksComeOncePerPeriod :
    RunInv sending ∧ sending.txArmed = true ∧ sending.txreg ≠ 0xFFFF#16 ∧
    RunInv lastTick ∧ lastTick.txArmed = true ∧ lastTick.txreg = 0xFFFF#16 ∧
    (List.replicate 371 true).length < sending.period.toNat - sending.tcnt.toNat ∧
    (List.replicate 372 true).length = sending.period.toNat - sending.tcnt.toNat :=
  ⟨runInv_sending, by decide, by decide, runInv_lastTick, by decide, by decide,
    List.length_replicate.trans_lt (by decide), List.length_replicate.trans (by decide)⟩

theorem witness_SendLoadsTheFrameOrWaits : sending.txArmed = true ∧
    (drained.txArmed = false ∧ drained.dir = .tx) ∧ listening.txArmed = false ∧ listening.dir = .rx := by
  decide

theorem witness_EnterTxTakesTheLine : sampling.txArmed = false ∧ sampling.dir = .rx := by decide

theorem witness_SendByteIsSendOfEncode : drained.txArmed = false ∧ listening.txArmed = false := by decide

theorem witness_TxTickShiftsOrDisarms :
    (sending.gie = true ∧ sending.txArmed = true ∧ sending.txreg ≠ 0xFFFF#16) ∧
    ∃ s : State, s.gie = true ∧ s.txArmed = true ∧ s.txreg = 0xFFFF#16 :=
  ⟨by decide, { sending with txreg := 0xFFFF }, by decide⟩

/-- The lowest and the highest place of the last 0 bit. -/
theorem witness_FrameTakesTicksToItsHighestZero :
    (∃ s : State, s.gie = true ∧ s.txArmed = true ∧ s.txreg.getLsbD 0 = false ∧
      ∀ k < 16, 0 < k → s.txreg.getLsbD k = true) ∧
    (∃ s : State, s.gie = true ∧ s.txArmed = true ∧ s.txreg.getLsbD 15 = false) :=
  ⟨⟨{ sending with txreg := 0xFFFE }, by decide⟩, ⟨{ sending with txreg := 0 }, by decide⟩⟩

theorem witness_RxEdgeSetsTheSampleInstant :
    listening.gie = true ∧ listening.rxArmed = true ∧ listening.rxstate = .waitEdge := by decide

theorem witness_RxSampleShiftsTheLevelIn :
    (sampling.gie = true ∧ sampling.rxArmed = true ∧ sampling.rxstate = .sample ∧
      (sampling.rxcnt + 1).toNat ≠ sampling.cfg.w + 3) ∧
    lastSample.gie = true ∧ lastSample.rxArmed = true ∧ lastSample.rxstate = .sample ∧
      (lastSample.rxcnt + 1).toNat = lastSample.cfg.w + 3 := by decide

/-- An image with a bad parity level, whose data value is 0x53 all the same. -/
theorem witness_RxFinalizeDeliversOrDrops_a : ∃ s : State, s.rxacc.toNat < 2 ^ (s.cfg.w + 3) ∧
    (∀ i, (0x53 : Half).getLsbD i = (decide (i < s.cfg.w) && !s.rxacc.getLsbD (s.cfg.w - i))) ∧
    ¬ (s.rxacc.getLsbD 0 = false ∧ s.rxacc.getLsbD (s.cfg.w + 2) = true ∧
      s.rxacc.getLsbD (s.cfg.w + 1) = !parity ((0x53 : Half).setWidth s.cfg.w)) := by
  refine ⟨{ sampling with rxacc := 0x46A }, by decide, fun i => ?_, by decide⟩
  by_cases h : i < 16
  · revert i
    decide
  · have h8 : ¬ i < 8 := by omega
    simp [sampling, listening, State.reset, State.resetWith, Config.reference, Config.w,
      DataWidth.bits, h8, BitVec.getLsbD_of_ge _ i (by omega : 16 ≤ i)]

/-- A valid image of 0x53, with room in the queue and without. -/
theorem witness_RxFinalizeDeliversOrDrops_b : ∃ s : State, s.rxacc.toNat < 2 ^ (s.cfg.w + 3) ∧
    (∀ i < 16, (0x53 : Half).getLsbD i = (decide (i < s.cfg.w) && !s.rxacc.getLsbD (s.cfg.w - i))) ∧
    (s.rxacc.getLsbD 0 = false ∧ s.rxacc.getLsbD (s.cfg.w + 2) = true ∧
      s.rxacc.getLsbD (s.cfg.w + 1) = !parity ((0x53 : Half).setWidth s.cfg.w)) ∧
    s.qcount ≠ s.cfg.qcap ∧ ({ s with qcount := 4 } : State).qcount = s.cfg.qcap :=
  ⟨{ sampling with rxacc := 0x66A }, by decide⟩

theorem witness_DecodeUndoesEncode :
    (0xFF : Half).toNat < 2 ^ State.reset.cfg.w ∧ (0x1FF : Half).toNat < 2 ^ nine.cfg.w := by decide

theorem witness_EnterRxArmsTheReceiver : drained.txArmed = false := by decide

/-- The seven clauses, in their order. -/
theorem witness_ReadMicroSteps :
    (∃ s : State, s.rdphase = .start ∧ s.rxArmed = true) ∧
    (sending.rdphase = .start ∧ sending.rxArmed = false ∧ sending.txArmed = true) ∧
    (drained.rdphase = .start ∧ drained.rxArmed = false ∧ drained.txArmed = false) ∧
    (∃ s : State, s.rdphase = .delay ∧ s.delaycnt ≠ 0) ∧
    (∃ s : State, s.rdphase = .delay ∧ s.delaycnt = 0 ∧ s.txArmed = false) ∧
    (listening.rdphase = .wait ∧ listening.qcount = 0) ∧
    ((queued 0x153).qrd < (queued 0x153).qbuf.length ∧ (queued 0x153).rdphase = .wait ∧
      (queued 0x153).qcount ≠ 0) :=
  ⟨⟨{ listening with rdphase := .start }, by decide⟩, by decide, by decide,
    ⟨{ drained with rdphase := .delay, delaycnt := 1 }, by decide⟩,
    ⟨{ drained with rdphase := .delay }, by decide⟩, by decide, by decide⟩

theorem witness_SampledFrameReachesTheQueue : ∃ s : State, EngineInv s ∧ s.gie = true ∧
    s.rxArmed = true ∧ s.rxstate = .sample ∧ s.rxacc = 0 ∧ s.rxcnt = 0 ∧ s.qcount < s.cfg.qcap :=
  ⟨edgeSeen, engineInv_edgeSeen, by decide⟩

theorem witness_FrameOnTheLineReachesTheQueue : RunInv listening ∧ listening.rxArmed = true ∧
    listening.rxstate = .waitEdge ∧ listening.ioPrev = true ∧ listening.qcount < listening.cfg.qcap :=
  ⟨runInv_listening, by decide⟩

theorem witness_DisarmedReceiverIgnoresTheLine : sending.rxArmed = false := by decide

theorem witness_QPutWritesOrFails : full.qcount = full.cfg.qcap ∧ listening.qcount ≠ listening.cfg.qcap := by
  decide

theorem witness_QGetsTakeTheOldestWord : listening.qcount = 0 ∧ full.qrd < full.qbuf.length ∧
    full.qcount ≠ 0 := by decide

/-- An empty queue, and one with a word. -/
theorem witness_QueueIsFifoOfItsCapacity : EngineInv listening ∧ listening.qcount = 0 ∧
    (List.replicate 4 (0 : Half)).length = listening.cfg.qcap ∧ listening.queueView = [] ∧
    EngineInv lastHeader ∧ lastHeader.queueView = [0x07] :=
  ⟨engineInv_listening, by decide, by decide, State.queueView_nil rfl, engineInv_lastHeader,
    queueView_lastHeader⟩

theorem witness_BootConfiguresTheHandshakeRate : State.reset.dstate = .boot := by decide

/-- ATR bytes 1 and 15, and the drain. -/
theorem witness_AtrIsSentAndDrained :
    (sending.dstate = .atrTx ∧ sending.txArmed = true) ∧
    (drained.didx.toNat < drained.cfg.atr.length ∧ drained.dstate = .atrTx ∧ drained.txArmed = false) ∧
    (15#16).toNat < drained.cfg.atr.length ∧
    (∃ s : State, s.dstate = .atrDrain ∧ s.txArmed = true) ∧
    (∃ s : State, s.dstate = .atrDrain ∧ s.txArmed = false) :=
  ⟨by decide, by decide, by decide, ⟨{ sending with dstate := .atrDrain }, by decide⟩,
    ⟨{ drained with dstate := .atrDrain }, by decide⟩⟩

theorem witness_ModeSwitchSelectsTheOperatingRate :
    (∃ s : State, s.dstate = .modeSwitch) ∧ listening.mode = .operating ∧
      (ran .idle listening).isSome = true :=
  ⟨⟨{ drained with dstate := .modeSwitch }, rfl⟩, by decide⟩

/-- READ in each phase, and a word of either kind. -/
theorem witness_IdleHuntsForTheClassByte :
    (listening.dstate = .idle ∧ Memory.wf listening.cmdbuf = true ∧ listening.rdphase = .wait ∧
      listening.qcount = 0) ∧
    (∃ s : State, s.dstate = .idle ∧ Memory.wf s.cmdbuf = true ∧ s.rdphase = .start) ∧
    (∃ s : State, s.dstate = .idle ∧ Memory.wf s.cmdbuf = true ∧ s.rdphase = .delay) ∧
    ((queued 0x153).dstate = .idle ∧ (queued 0x153).rdphase = .wait ∧ (queued 0x153).qcount ≠ 0 ∧
      (0x153 : Half).setWidth 8 = 0x53#8) ∧
    (0x54 : Half).setWidth 8 ≠ 0x53#8 :=
  ⟨by decide, ⟨{ listening with rdphase := .start }, by decide⟩,
    ⟨{ listening with rdphase := .delay }, by decide⟩, by decide, by decide⟩

theorem witness_HeaderStoresItsBytes :
    (lastHeader.dstate = .header ∧ Memory.wf lastHeader.cmdbuf = true ∧
      lastHeader.qrd < lastHeader.qbuf.length ∧ lastHeader.rdphase = .wait ∧ lastHeader.qcount ≠ 0 ∧
      lastHeader.didx.toNat < 32) ∧
    ∃ s : State, s.dstate = .header ∧ Memory.wf s.cmdbuf = true ∧ s.rdphase = .start :=
  ⟨by decide, { lastHeader with rdphase := .start }, by decide⟩

/-- A header of each named instruction byte, and of one that has no name. -/
theorem witness_DispatchSelectsByInstructionByte :
    ([0x70, 0x78, 0x76, 0x72, 0x7A, 0x74, 0x7F] : List Byte).all (fun ins => decide
      ((captured ins).cfg.ok = true ∧ (captured ins).dstate = .dispatch ∧
        Memory.read (captured ins).cmdbuf 1 = ins)) = true := by decide

theorem witness_CommandsBeginTheirResponse :
    (captured 0x76).cfg.ok = true ∧ (captured 0x76).dstate = .dispatch ∧
    Memory.read (captured 0x76).cmdbuf 1 = (captured 0x76).cfg.insAuth ∧
    (0x7F#8 : Byte) ∉ [0x70#8, 0x78#8, 0x76#8, 0x72#8, 0x7A#8, 0x74#8] := by decide

theorem witness_CommandsChangeOnlyTheDispatcher :
    (Instr.unknown 0x7F 0 0 0).wf (captured 0x7F).cfg = true ∧ (captured 0x7F).dstate = .dispatch ∧
    Memory.read (captured 0x7F).cmdbuf 1 = 0x7F#8 ∧ listening.dstate ≠ .dispatch := by decide

theorem witness_CommandStepIsTheDispatchStep :
    (captured 0x78).delayPhase = .start ∧ (captured 0x78).dstate = .dispatch ∧
    State.agentInstr (captured 0x78) .dispatcher = some (.seed 0 0 0) := by decide

/-- The seven clauses, in their order; DIDX at the last byte of the table. -/
theorem witness_ResponseStepsSendTheirByte :
    (∃ s : State, s.txArmed = true ∧ s.dstate = .bodyTx) ∧
    (∃ s : State, s.txArmed = true ∧ s.dstate = .cwEcho) ∧
    (∃ s : State, s.txArmed = true ∧ s.dstate = .trailerTx) ∧
    (∃ s : State, s.didx.toNat < (resp s.cfg (Memory.read s.cmdbuf 1)).length ∧ s.txArmed = false ∧
      s.dstate = .bodyTx ∧ (s.didx + 1).toNat = (resp s.cfg (Memory.read s.cmdbuf 1)).length) ∧
    (∃ s : State, s.txArmed = false ∧ s.dstate = .cwEcho) ∧
    (∃ s : State, s.txArmed = false ∧ s.dstate = .trailerTx ∧ s.didx = 0) ∧
    (∃ s : State, s.txArmed = false ∧ s.dstate = .trailerTx ∧ s.didx = 1) :=
  ⟨⟨{ sending with dstate := .bodyTx }, by decide⟩, ⟨{ sending with dstate := .cwEcho }, by decide⟩,
    ⟨{ sending with dstate := .trailerTx }, by decide⟩,
    ⟨{ captured 0x78 with dstate := .bodyTx, didx := 7 }, by decide⟩,
    ⟨{ captured 0x74 with dstate := .cwEcho }, by decide⟩,
    ⟨{ drained with dstate := .trailerTx, didx := 0 }, by decide⟩,
    ⟨{ drained with dstate := .trailerTx, didx := 1 }, by decide⟩⟩

/-- The last payload byte, whose index 36 lies outside CMDBUF. -/
theorem witness_CwPayloadIsSwallowed :
    (∃ s : State, s.dstate = .cwRx ∧ Memory.wf s.cmdbuf = true ∧ s.rdphase = .start) ∧
    ∃ s : State, s.dstate = .cwRx ∧ Memory.wf s.cmdbuf = true ∧ s.qrd < s.qbuf.length ∧
      s.rdphase = .wait ∧ s.qcount ≠ 0 ∧ s.didx = 31 :=
  ⟨⟨{ listening with dstate := .cwRx, rdphase := .start }, by decide⟩,
    ⟨{ queued 0x1F with dstate := .cwRx, didx := 31 }, by decide⟩⟩

theorem witness_ClearZeroesTheBuffer : ∃ s : State, s.dstate = .clear :=
  ⟨{ captured 0x78 with dstate := .clear }, rfl⟩

theorem witness_ResetRestoresTheTable : sampling.cfg.qcap ≠ 0 := by decide

theorem witness_ResetStateMeetsTheInvariants : Config.ok .reference = true := by decide

theorem witness_GuardedOperationsWait :
    (State.reset.gie = false ∨ State.reset.txArmed = false) ∧
    ¬ (State.reset.gie = true ∧ State.reset.rxArmed = true ∧ State.reset.rxstate = .waitEdge) ∧
    ¬ (listening.gie = true ∧ listening.rxArmed = true ∧ listening.rxstate = .sample) ∧
    ¬ (drained.txArmed = false ∧ drained.dir = .rx) ∧ sending.txArmed = true ∧
    listening.dstate ≠ .boot ∧ State.reset.dstate ≠ .idle ∧
    ∃ s : State, s.txArmed = true ∧ s.rdphase = .delay :=
  ⟨by decide, by decide, by decide, by decide, by decide, by decide, by decide,
    { sending with rdphase := .delay }, by decide⟩

theorem witness_ReservedStatesAreStuck :
    (∃ s : State, s.cfg.ok = true ∧ s.delayPhase = .start ∧ s.dstate = .reserved 3 ∧
      s.agenda = .agent .dispatcher :: []) ∧
    ∃ s : State, s.rdphase = .reserved ∧ s.dstate = .idle :=
  ⟨⟨{ listening with dstate := .reserved 3, agenda := [.agent .dispatcher] }, by decide⟩,
    { listening with rdphase := .reserved }, by decide⟩

/-- A called operation that steps. -/
theorem witness_EveryStepKeepsTheEngineInvariant :
    ∃ s : State, EngineInv s ∧ (stepped s).isSome = true :=
  ⟨called, engineInv_called, by decide⟩

theorem witness_EveryRunGoesOnInTheInvariant : RunInv sending ∧ RunInv listening :=
  ⟨runInv_sending, runInv_listening⟩

theorem witness_DispatcherFollowsItsTransitions : RunInv drained ∧
    State.agentInstr drained .dispatcher = some .atrTx ∧ (ran .atrTx drained).isSome = true ∧
    (ran (.clkTick true) drained).isSome = true := ⟨runInv_drained, by decide⟩

/-- A byte that is sent, a header that becomes complete, a dispatcher that waits for a frame in flight, and a
CLK cycle that takes a tick of it. -/
theorem witness_OwedBytesAreSentInOrder :
    (RunInv drained ∧ State.agentInstr drained .dispatcher = some .atrTx ∧
      (ran .atrTx drained).map (·.txArmed) = some true) ∧
    (RunInv lastHeader ∧ State.agentInstr lastHeader .dispatcher = some .header ∧
      (ran .header lastHeader).map (·.dstate) = some .dispatch) ∧
    (RunInv sending ∧ State.agentInstr sending .dispatcher = some .atrTx ∧
      (ran .atrTx sending).map (·.txreg) = some 0xFFF4#16) ∧
    RunInv lastTick ∧ (ran (.clkTick true) lastTick).isSome = true :=
  ⟨⟨runInv_drained, by decide⟩, ⟨runInv_lastHeader, by decide⟩, ⟨runInv_sending, by decide⟩,
    runInv_lastTick, by decide⟩

/-- A step, and for each element an operation that does not own it. -/
theorem witness_OnlyOwnersWrite : (ran .txTick sending).isSome = true ∧
    performs .txTick [.modeSwitching, .configuring, .clocking, .delaying, .reading, .sending, .takingLine,
      .listening, .edging, .sampling, .putting, .getting, .storing, .dispatching, .resetting] = false ∧
    performs (.qPut 0) [.clocking, .ticking, .sending, .takingLine, .configuring, .resetting] = false := by
  decide

/-- Two headers that differ in P1; and a step that stops in both. -/
theorem witness_HeaderParametersNeverMatter :
    (∃ s : State, s.agenda = .agent .dispatcher :: [] ∧ Memory.wf s.cmdbuf = true ∧
      Memory.wf [(0, 0x53#8), (1, 0x78#8), (2, 0xAA#8)] = true ∧
      Memory.read [(0, 0x53#8), (1, 0x78#8), (2, 0xAA#8)] 0 = Memory.read s.cmdbuf 0 ∧
      Memory.read [(0, 0x53#8), (1, 0x78#8), (2, 0xAA#8)] 1 = Memory.read s.cmdbuf 1 ∧
      (stepped s).isSome = true) ∧
    ∃ s : State, s.agenda = .agent .dispatcher :: [] ∧ stepped s = none :=
  ⟨⟨{ captured 0x78 with agenda := [.agent .dispatcher] }, by decide⟩,
    { captured 0x78 with agenda := [.agent .dispatcher], dstate := .reserved 0 }, by decide⟩

theorem witness_InstructionByteIsStable : RunInv lastHeader ∧
    State.agentInstr lastHeader .dispatcher = some .header ∧
    (lastHeader.dstate = .header ∧ 2 ≤ lastHeader.didx.toNat) ∧
    (ran .header lastHeader).isSome = true := ⟨runInv_lastHeader, by decide⟩

end Sys2Proof.Tests
end

section
/-! PROOFS. RESET from any state (10_state.md R60). -/

namespace Sys2Proof.Machine

namespace State

/-- QBUF's free contents after RESET are still QCAP words. -/
@[simp] theorem length_qbuf_resetRegisters (s : State) :
    s.resetRegisters.qbuf.length = s.cfg.qcap := by
  simp [resetRegisters]

/-- The empty queue of RESET is not also full, unless its capacity is 0. -/
theorem qFull_resetRegisters {s : State} (h : s.cfg.qcap ≠ 0) : s.resetRegisters.qFull = false :=
  decide_eq_false h.symm

end State

theorem exec_reset (s : State) : exec .reset s = .next s.resetRegisters := rfl

/-- Settles O49: RESET's next state is `resetRegisters`, whose elements stand at the table's values by its
definition; QBUF's length, CMDBUF's content and Q_FULL are the rows that need a fact of their own. -/
theorem resetRestoresTheTable : Obligations.ResetRestoresTheTable := by
  intro s
  refine ⟨s.resetRegisters, exec_reset s, rfl, rfl, rfl, rfl, rfl, rfl, rfl, rfl, rfl, rfl, rfl, rfl, rfl,
    rfl, rfl, rfl, rfl, rfl, rfl, ?qbufLength, rfl, rfl, rfl, ?cmdbufZero, rfl, rfl, rfl, rfl, rfl, rfl, rfl,
    ?notFull⟩
  case qbufLength => exact s.length_qbuf_resetRegisters
  case cmdbufZero => exact Memory.read_nil
  case notFull => exact State.qFull_resetRegisters

end Sys2Proof.Machine
end

section
/-! PROOFS. ENCODE's code, field by field (30_encoding.md R101, 41_transmit.md R150). -/

namespace Sys2Proof.Machine

theorem exec_encode (v : Half) (s : State) :
    exec (.encode v) s =
      .next { s with result := .code (frameEncode (v.setWidth s.cfg.w)), raised := none } := rfl

@[simp] theorem getLsbD_frameEncode_start {w : Nat} (v : BitVec w) :
    (frameEncode v).getLsbD 0 = false := by
  rw [getLsbD_frameEncode v (by omega), if_pos rfl]

theorem getLsbD_frameEncode_data {w : Nat} (hw : w < 16) (v : BitVec w) {i : Nat} (hi : i < w) :
    (frameEncode v).getLsbD (1 + i) = !v.getLsbD (w - 1 - i) := by
  rw [getLsbD_frameEncode v (by omega), if_neg (by omega), if_pos (by omega), Nat.sub_sub]

theorem getLsbD_frameEncode_parity {w : Nat} (hw : w + 1 < 16) (v : BitVec w) :
    (frameEncode v).getLsbD (w + 1) = !parity v := by
  rw [getLsbD_frameEncode v hw, if_neg (by omega), if_neg (by omega), if_pos rfl]

theorem getLsbD_frameEncode_stop {w : Nat} (v : BitVec w) {k : Nat} (hk : w + 2 ≤ k) (hk16 : k < 16) :
    (frameEncode v).getLsbD k = true := by
  rw [getLsbD_frameEncode v hk16, if_neg (by omega), if_neg (by omega), if_neg (by omega)]

/-- Settles O17: the code is `frameEncode` of the operand's low `W` bits, read off one field at a time; a
data bit lies below `W`, so narrowing the operand to `W` bits does not lose it. -/
theorem encodeLaysOutTheFrame : Obligations.EncodeLaysOutTheFrame := by
  intro v s
  have hw : s.cfg.w ≤ 9 := s.cfg.w_le
  refine ⟨frameEncode (v.setWidth s.cfg.w), exec_encode v s, getLsbD_frameEncode_start _, ?data,
    getLsbD_frameEncode_parity (by omega) _, fun k hk hk16 => getLsbD_frameEncode_stop _ hk hk16⟩
  case data =>
    intro i hi
    have hlow : s.cfg.w - 1 - i < s.cfg.w := by omega
    rw [getLsbD_frameEncode_data (by omega) _ hi, BitVec.getLsbD_setWidth, decide_eq_true hlow,
      Bool.true_and]

end Sys2Proof.Machine
end

section
/-! PROOFS. CONFIGURE's whole next state (40_timing_baud.md R130, R131). -/

namespace Sys2Proof.Machine

theorem exec_configure (rate : Mode) (s : State) :
    exec (.configure rate) s = .next (s.start.configure rate) := rfl

theorem periodOf_handshake (c : Config) : periodOf c .handshake = BitVec.ofNat 16 c.pHs := rfl

theorem periodOf_operating (c : Config) :
    periodOf c .operating = BitVec.ofNat 16 (c.pHs / c.rateMult) := rfl

/-- Settles O7: CONFIGURE's next state is `State.configure` of the relabelled state, which stands at the
statement's values by its definition; only PERIOD depends on the rate. -/
theorem configureInstallsThePeriod : Obligations.ConfigureInstallsThePeriod := by
  intro rate s
  rw [exec_configure, State.configure, State.start_cfg]
  cases rate with
  | handshake => rw [periodOf_handshake]; rfl
  | operating => rw [periodOf_operating]; rfl

end Sys2Proof.Machine
end

section
/-! PROOFS. The fold by halves of `parity` is the population count modulo 2 (41_transmit.md R151). -/

namespace Sys2Proof.Machine

/-- Whether an odd number of the first `n` bits are 1: R151's population count modulo 2. -/
def oddOnes (bit : Nat → Bool) (n : Nat) : Bool :=
  decide (((List.range n).filter bit).length % 2 = 1)

theorem oddOnes_zero (bit : Nat → Bool) : oddOnes bit 0 = false := rfl

/-- One more bit flips the parity of the count exactly if it is 1, as XOR does. -/
theorem oddOnes_succ (bit : Nat → Bool) (n : Nat) :
    oddOnes bit (n + 1) = (oddOnes bit n ^^ bit n) := by
  unfold oddOnes
  rw [List.range_succ, List.filter_append, List.length_append]
  cases hbit : bit n with
  | false => simp [hbit]
  | true =>
    have hflip (k : Nat) : decide ((k + 1) % 2 = 1) = !decide (k % 2 = 1) := by
      rw [← decide_not, decide_eq_decide]
      omega
    simpa [hbit] using hflip ((List.range n).filter bit).length

theorem oddOnes_congr {f g : Nat → Bool} {n : Nat} (h : ∀ i, i < n → f i = g i) :
    oddOnes f n = oddOnes g n := by
  unfold oddOnes
  rw [List.filter_congr fun i hi => h i (List.mem_range.mp hi)]

/-- The three halvings of R151 XOR the eight bits, each once. -/
theorem parity8_eq_oddOnes (v : Byte) : parity8 v = oddOnes v.getLsbD 8 := by
  simp only [parity8, oddOnes_succ, oddOnes_zero, BitVec.getLsbD_xor, BitVec.getLsbD_extractLsb',
    Nat.reduceLT, Nat.reduceAdd, decide_true, Bool.true_and, Bool.false_xor]
  simp only [Bool.xor_assoc, Bool.xor_comm, Bool.xor_left_comm]

/-- At any width up to 9, `parity` counts bits 0 to 8; those outside the value are 0. -/
theorem parity_eq_oddOnes {w : Nat} (v : BitVec w) : parity v = oddOnes v.getLsbD 9 := by
  have hlow : ∀ i, i < 8 → (v.setWidth 8).getLsbD i = v.getLsbD i := fun i hi => by simp [hi]
  rw [parity, parity8_eq_oddOnes, oddOnes_congr hlow, oddOnes_succ v.getLsbD 8]

/-- Settles O18: XOR over bits 0 to 8 is the count modulo 2, and a value of 8 bits has no bit 8 to count. -/
theorem parityIsPopulationCount : Obligations.ParityIsPopulationCount := by
  intro d v
  rw [parity_eq_oddOnes]
  cases d with
  | nine => rfl
  | eight =>
    have hbit8 : v.getLsbD 8 = false := v.getLsbD_of_ge 8 (Nat.le_refl 8)
    rw [oddOnes_succ, hbit8, Bool.xor_false]
    rfl

end Sys2Proof.Machine
end

section
/-! PROOFS. SEND, ENTER_TX and SEND_BYTE (41_transmit.md R152, R153, R154). -/

namespace Sys2Proof.Machine

namespace State

theorem afterSend_of_busy {s : State} (h : s.txArmed = true) (code : Half) (go : State → State) :
    s.afterSend code go = .next s.blocked := if_pos h

theorem afterSend_of_drained {s : State} (h : s.txArmed = false) (code : Half) (go : State → State) :
    s.afterSend code go = .next (go (s.start.loadFrame code)) := if_neg (by simp [txBusy, h])

@[simp] theorem loadFrame_txreg (code : Half) (s : State) : (s.loadFrame code).txreg = code := rfl

@[simp] theorem loadFrame_txArmed (code : Half) (s : State) : (s.loadFrame code).txArmed = true := rfl

end State

theorem exec_send (code : Half) (s : State) : exec (.send code) s = s.afterSend code id := rfl

theorem exec_send_busy {s : State} (h : s.txArmed = true) (code : Half) :
    exec (.send code) s = .next s.blocked := by
  rw [exec_send, State.afterSend_of_busy h]

theorem exec_send_drained {s : State} (h : s.txArmed = false) (code : Half) :
    exec (.send code) s = .next (s.start.loadFrame code) := by
  rw [exec_send, State.afterSend_of_drained h, id_eq]

/-- Settles O19: the wait decides between `blocked` and `loadFrame`, and DIR decides whether the load
takes the line first. -/
theorem sendLoadsTheFrameOrWaits : Obligations.SendLoadsTheFrameOrWaits := by
  intro code s
  refine ⟨fun hbusy => ?busy, fun hdrained htx => ?sending, fun hdrained hrx => ?listening⟩
  case busy => rw [exec_send_busy hbusy, State.blocked]
  case sending => rw [exec_send_drained hdrained, State.loadFrame_of_tx (s := s.start) htx]; rfl
  case listening => rw [exec_send_drained hdrained, State.loadFrame_of_rx (s := s.start) hrx]; rfl

theorem exec_enterTx {s : State} (hdrained : s.txArmed = false) (hrx : s.dir = .rx) :
    exec .enterTx s = .next s.start.enterTx := if_pos ⟨hdrained, hrx⟩

/-- Settles O20: where it is enabled, ENTER_TX is `State.enterTx` of the relabelled state. -/
theorem enterTxTakesTheLine : Obligations.EnterTxTakesTheLine := by
  intro s hdrained hrx
  rw [exec_enterTx hdrained hrx, State.enterTx, State.start]

theorem exec_sendByte (b : Byte) (s : State) :
    exec (.sendByte b) s = exec (.send (s.byteCode b)) s := rfl

/-- ENCODE reads the low `W` bits of its operand, and a byte widened to 16 bits and cut to `W` (8 or 9) is
the byte zero-extended to `W`. -/
theorem exec_encode_byte (b : Byte) (s : State) :
    exec (.encode (b.setWidth 16)) s = .next { s with result := .code (s.byteCode b), raised := none } := by
  have hcut : (b.setWidth 16).setWidth s.cfg.w = b.setWidth s.cfg.w :=
    BitVec.setWidth_setWidth_of_le b (Nat.le_trans s.cfg.w_le (by decide))
  rw [exec_encode, hcut, State.byteCode]

/-- Settles O21: the code is `byteCode`; a drained SEND loads it and takes the line. -/
theorem sendByteIsSendOfEncode : Obligations.SendByteIsSendOfEncode := by
  intro b s
  refine ⟨s.byteCode b, exec_encode_byte b s, exec_sendByte b s, fun hdrained => ?loaded⟩
  case loaded =>
    refine ⟨s.start.loadFrame (s.byteCode b), ?_, State.loadFrame_txreg _ _, State.loadFrame_txArmed _ _,
      State.loadFrame_dir _ _⟩
    rw [exec_sendByte, exec_send_drained hdrained]

end Sys2Proof.Machine
end

section
/-! PROOFS. TX_TICK, the shift and the terminal value (41_transmit.md R155). -/

namespace Sys2Proof.Machine

namespace State

/-- At the terminal value the bit that goes out is a 1. -/
theorem tick_of_ones {s : State} (h : s.txreg = 0xFFFF#16) :
    s.tick = { s with ioOut := true, txArmed := false } := by
  have hbit : s.txreg.getLsbD 0 = true := by rw [h]; rfl
  rw [tick, if_pos h, hbit]

theorem tick_of_shift {s : State} (h : s.txreg ≠ 0xFFFF#16) :
    s.tick = { s with ioOut := s.txreg.getLsbD 0, txreg := (s.txreg >>> 1) ||| 0x8000#16 } := if_neg h

end State

theorem exec_txTick {s : State} (hgie : s.gie = true) (harmed : s.txArmed = true) :
    exec .txTick s = .next s.start.tick := if_pos (by rw [State.tickEnabled, hgie, harmed]; rfl)

/-- Settles O22: the handler is enabled, and the test on the value it finds decides between `tick_of_ones`
and `tick_of_shift`. -/
theorem txTickShiftsOrDisarms : Obligations.TxTickShiftsOrDisarms := by
  intro s
  refine ⟨fun hgie harmed hones => ?terminal, fun hgie harmed hmore => ?shift⟩
  case terminal => rw [exec_txTick hgie harmed, State.tick_of_ones (s := s.start) hones]; rfl
  case shift => rw [exec_txTick hgie harmed, State.tick_of_shift (s := s.start) hmore]; rfl

end Sys2Proof.Machine
end

section
/-! PROOFS. DECODE of the low `W + 3` bits of a word, and the round trip with ENCODE (42_receive.md R176, R178). -/

namespace Sys2Proof.Machine

theorem exec_decode (acc : Half) (s : State) :
    exec (.decode acc) s = .next { s with
      result := .decoded (accValid (acc.setWidth (s.cfg.w + 3)))
        ((accValue (acc.setWidth (s.cfg.w + 3))).setWidth 16)
      raised := none } := rfl

/-- Cutting a word to an image loses none of the bits that DECODE reads as data. -/
theorem getLsbD_accValue_setWidth {n w : Nat} (hw : w ≤ 16) (x : BitVec n) (i : Nat) :
    ((accValue (x.setWidth (w + 3))).setWidth 16).getLsbD i =
      (decide (i < w) && !x.getLsbD (w - i)) := by
  rw [BitVec.getLsbD_setWidth, getLsbD_accValue, BitVec.getLsbD_setWidth,
    decide_eq_true (show w - i < w + 3 by omega), Bool.true_and]
  by_cases hi : i < w
  · rw [decide_eq_true (show i < 16 by omega), Bool.true_and]
  · rw [decide_eq_false hi, Bool.false_and, Bool.and_false]

/-- The bits of DATA determine the data value. -/
theorem eq_accValue_setWidth {n w : Nat} (hw : w ≤ 16) {x : BitVec n} {v : Half}
    (hbits : ∀ i, v.getLsbD i = (decide (i < w) && !x.getLsbD (w - i))) :
    v = (accValue (x.setWidth (w + 3))).setWidth 16 :=
  BitVec.eq_of_getLsbD_eq fun i _ => (hbits i).trans (getLsbD_accValue_setWidth hw x i).symm

/-- R176's three conditions, read off the bits of a word whose low `w + 3` bits are the image. -/
theorem accValid_setWidth_iff {n w : Nat} (x : BitVec n) :
    accValid (x.setWidth (w + 3)) = true ↔ x.getLsbD 0 = false ∧ x.getLsbD (w + 2) = true ∧
      x.getLsbD (w + 1) = !parity (accValue (x.setWidth (w + 3))) := by
  have hlevel (a b : Bool) : ((!a) == b) = true ↔ a = !b := by cases a <;> cases b <;> decide
  have hstart : (x.setWidth (w + 3)).getLsbD 0 = x.getLsbD 0 := by simp
  have hparity : (x.setWidth (w + 3)).getLsbD (w + 1) = x.getLsbD (w + 1) := by simp
  have hstop : (x.setWidth (w + 3)).getLsbD (w + 2) = x.getLsbD (w + 2) := by simp
  rw [accValid, hstart, hparity, hstop, Bool.and_eq_true, Bool.and_eq_true, hlevel, Bool.not_eq_true',
    and_assoc]

/-- Settles O27: the answer is `accValid` and `accValue` of the operand cut to `W + 3` bits; the value is
`W` bits wide, so its parity is the same in 16 bits cut to `W`. -/
theorem decodeReadsTheFields : Obligations.DecodeReadsTheFields := by
  intro acc s
  have hw : s.cfg.w ≤ 16 := Nat.le_trans s.cfg.w_le (by decide)
  refine ⟨_, _, exec_decode acc s, getLsbD_accValue_setWidth hw acc, ?valid⟩
  case valid => rw [setWidth_setWidth_of_le hw, accValid_setWidth_iff]

/-- Masking a word to its low `n` bits and cutting it to `n` bits is cutting it. -/
theorem setWidth_and_mask (x : Half) (n : Nat) :
    (x &&& BitVec.ofNat 16 (2 ^ n - 1)).setWidth n = x.setWidth n := by
  apply BitVec.eq_of_getLsbD_eq
  intro k hk
  have hinside : x.getLsbD k = true → k < 16 := BitVec.lt_of_getLsbD
  simpa [BitVec.getLsbD_ofNat, Nat.testBit_two_pow_sub_one, hk] using hinside

/-- A value that fits `n` bits comes through the cut to `n` bits unchanged, even where `n` is its own width,
which `BitVec.setWidth_setWidth_eq_self` leaves out. -/
theorem setWidth_setWidth_of_toNat_lt {m n : Nat} {x : BitVec m} (h : x.toNat < 2 ^ n) :
    (x.setWidth n).setWidth m = x := by
  apply BitVec.eq_of_toNat_eq
  rw [BitVec.toNat_setWidth, BitVec.toNat_setWidth, Nat.mod_eq_of_lt h, Nat.mod_eq_of_lt x.isLt]

/-- Settles O28: the image that DECODE reads has the bits of the code, so `decode_of_code` gives the value
that ENCODE took; it fits `W` bits, so narrowing and widening restores the operand. -/
theorem decodeUndoesEncode : Obligations.DecodeUndoesEncode := by
  intro v s hfits
  have hw : s.cfg.w ≤ 9 := s.cfg.w_le
  refine ⟨frameEncode (v.setWidth s.cfg.w), exec_encode v s, ?decoded⟩
  case decoded =>
    obtain ⟨hvalue, hvalid⟩ := decode_of_code hw (v.setWidth s.cfg.w)
      ((frameEncode (v.setWidth s.cfg.w)).setWidth (s.cfg.w + 3)) fun k hk => by simp [hk]
    rw [exec_decode, setWidth_and_mask, hvalue, hvalid, setWidth_setWidth_of_toNat_lt hfits]

end Sys2Proof.Machine
end

section
/-! PROOFS. The receive engine's handlers and its arming (42_receive.md R171, R173, R175, R180). -/

namespace Sys2Proof.Machine

theorem exec_rxEdge {s : State} (hgie : s.gie = true) (harmed : s.rxArmed = true)
    (hwait : s.rxstate = .waitEdge) : exec .rxEdge s = .next s.start.edge :=
  if_pos (by rw [State.edgeEnabled, State.edgeArmed, hgie, harmed, hwait]; rfl)

/-- Settles O24: the handler is enabled, and `State.edge` with `sampleInstant` is R171's assignment. -/
theorem rxEdgeSetsTheSampleInstant : Obligations.RxEdgeSetsTheSampleInstant := by
  intro s hgie harmed hwait
  rw [exec_rxEdge hgie harmed hwait, State.edge, sampleInstant]
  rfl

theorem exec_rxSample {s : State} (hgie : s.gie = true) (harmed : s.rxArmed = true)
    (hsampling : s.rxstate = .sample) (l : Level) : exec (.rxSample l) s = .next (s.start.sample l) :=
  if_pos (by rw [State.sampleEnabled, State.sampleArmed, hgie, harmed, hsampling]; rfl)

theorem exec_rxFinalize (s : State) : exec .rxFinalize s = .next s.start.finalize := rfl

/-- Settles O25: the handler is enabled, the accumulator is the one `shiftIn` leaves, and the new count
decides between `sample_of_more` and `sample_of_last`. -/
theorem rxSampleShiftsTheLevelIn : Obligations.RxSampleShiftsTheLevelIn := by
  intro l s hgie harmed hsampling
  refine ⟨(s.shiftIn l).rxacc, s.getLsbD_shiftIn l, fun hmore => ?more, fun hlast => ?last⟩
  case more =>
    rw [exec_rxSample hgie harmed hsampling, State.sample_of_more (s := s.start) hmore]
    rfl
  case last =>
    rw [exec_rxSample hgie harmed hsampling, State.sample_of_last (s := s.start) hlast, exec_rxFinalize]
    rfl

namespace State

theorem deliver_of_full {s : State} (h : s.qcount = s.cfg.qcap) (v : Half) :
    s.deliver v = s.raise (.queueOverflow v) := by
  rw [deliver, qPut_of_full h]
  rfl

theorem deliver_of_room {s : State} (h : s.qcount ≠ s.cfg.qcap) (v : Half) :
    s.deliver v = { s with
      qbuf := s.qbuf.set s.qwr v, qwr := (s.qwr + 1) % s.cfg.qcap, qcount := s.qcount + 1 } := by
  rw [deliver, qPut_of_room h]
  rfl

/-- An accumulator that holds an image of `W + 3` bits is reported whole. -/
theorem setWidth_acc {s : State} (h : s.rxacc.toNat < 2 ^ (s.cfg.w + 3)) : s.acc.setWidth 12 = s.rxacc :=
  setWidth_setWidth_of_toNat_lt h

end State

theorem exec_rxFinalize_valid {s : State} (h : accValid s.acc = true) :
    exec .rxFinalize s = .next (s.start.deliver ((accValue s.acc).setWidth 16)).endFrame := by
  rw [exec_rxFinalize, State.finalize_of_valid (s := s.start) h]
  rfl

theorem exec_rxFinalize_invalid {s : State} (h : accValid s.acc = false) :
    exec .rxFinalize s = .next (s.start.raise (.frameError (s.acc.setWidth 12))).endFrame := by
  rw [exec_rxFinalize, State.finalize_of_invalid (s := s.start) h]
  rfl

/-- Settles O26: `v` is `accValue` of the image, so the statement's three conditions are `accValid`; a valid
image is delivered or, on a full queue, reported, and an invalid one is reported. -/
theorem rxFinalizeDeliversOrDrops : Obligations.RxFinalizeDeliversOrDrops := by
  intro v s himage hbits
  have hw : s.cfg.w ≤ 16 := Nat.le_trans s.cfg.w_le (by decide)
  have hv : v = (accValue s.acc).setWidth 16 := eq_accValue_setWidth hw hbits
  have hparity : v.setWidth s.cfg.w = accValue s.acc := by rw [hv, setWidth_setWidth_of_le hw]
  have hvalid := accValid_setWidth_iff (w := s.cfg.w) s.rxacc
  rw [hparity]
  refine ⟨fun hbad => ?invalid, fun hstart hstop hpar => ⟨fun hfull => ?full, fun hroom => ?room⟩⟩
  case invalid =>
    have hinvalid : accValid s.acc = false := Bool.eq_false_iff.mpr fun h => hbad (hvalid.mp h)
    rw [exec_rxFinalize_invalid hinvalid, State.setWidth_acc himage]
    rfl
  case full =>
    rw [exec_rxFinalize_valid (hvalid.mpr ⟨hstart, hstop, hpar⟩), ← hv,
      State.deliver_of_full (s := s.start) hfull]
    rfl
  case room =>
    rw [exec_rxFinalize_valid (hvalid.mpr ⟨hstart, hstop, hpar⟩), ← hv,
      State.deliver_of_room (s := s.start) hroom]
    rfl

theorem exec_enterRx {s : State} (hdrained : s.txArmed = false) :
    exec .enterRx s = .next s.start.enterRx := if_neg (by simp [State.txBusy, hdrained])

/-- Settles O29: where it is enabled, ENTER_RX is `State.enterRx` of the relabelled state. -/
theorem enterRxArmsTheReceiver : Obligations.EnterRxArmsTheReceiver := by
  intro s hdrained
  rw [exec_enterRx hdrained, State.enterRx, State.start]

end Sys2Proof.Machine
end

section
/-! PROOFS. Q_PUT, Q_GET_WAIT and Q_GET_NOWAIT, one step at a time (43_byte_queue.md R201, R202, R203). -/

namespace Sys2Proof.Machine

theorem exec_qPut (v : Half) (s : State) :
    exec (.qPut v) s = .next ((s.start.qPut v).2.answer (.putOk (s.start.qPut v).1)) := rfl

theorem exec_qPut_full {s : State} (hfull : s.qcount = s.cfg.qcap) (v : Half) :
    exec (.qPut v) s = .next (s.start.answer (.putOk false)) := by
  rw [exec_qPut, State.qPut_of_full (s := s.start) hfull]

theorem exec_qPut_room {s : State} (hroom : s.qcount ≠ s.cfg.qcap) (v : Half) :
    exec (.qPut v) s = .next ((s.start.qPut v).2.answer (.putOk true)) := by
  rw [exec_qPut, State.qPut_of_room (s := s.start) hroom]

/-- Settles O34: Q_FULL decides between `exec_qPut_full` and `exec_qPut_room`. -/
theorem qPutWritesOrFails : Obligations.QPutWritesOrFails := by
  intro v s
  refine ⟨fun hfull => ?full, fun hroom => ?room⟩
  case full => rw [exec_qPut_full hfull]; rfl
  case room => rw [exec_qPut_room hroom, State.qPut_of_room (s := s.start) hroom]; rfl

theorem exec_qGetWait_empty {s : State} (hempty : s.qcount = 0) :
    exec .qGetWait s = .next s.blocked := if_pos (decide_eq_true hempty)

theorem exec_qGetNowait_empty {s : State} (hempty : s.qcount = 0) :
    exec .qGetNowait s = .next (s.start.answer (.tryWord false 0)) := if_pos (decide_eq_true hempty)

theorem exec_qGetWait_word {s : State} (hword : s.qcount ≠ 0) :
    exec .qGetWait s = .next (s.start.qTake.answer (.word s.qHead)) :=
  if_neg (by simpa [State.qEmpty] using hword)

theorem exec_qGetNowait_word {s : State} (hword : s.qcount ≠ 0) :
    exec .qGetNowait s = .next (s.start.qTake.answer (.tryWord true s.qHead)) :=
  if_neg (by simpa [State.qEmpty] using hword)

/-- Settles O35: Q_EMPTY decides between the two next states of either get, and the head is the word at the
read cursor. -/
theorem qGetsTakeTheOldestWord : Obligations.QGetsTakeTheOldestWord := by
  intro s
  refine ⟨fun hempty => ⟨?waitEmpty, ?nowaitEmpty⟩, fun hcursor hword => ⟨?waitWord, ?nowaitWord⟩⟩
  case waitEmpty => rw [exec_qGetWait_empty hempty, State.blocked]
  case nowaitEmpty => rw [exec_qGetNowait_empty hempty]; rfl
  case waitWord => rw [exec_qGetWait_word hword, State.qHead_of_lt hcursor]; rfl
  case nowaitWord => rw [exec_qGetNowait_word hword, State.qHead_of_lt hcursor]; rfl

end Sys2Proof.Machine
end

section
/-! PROOFS. The queue as a list over one operation and over a run of them (43_byte_queue.md R205, R207). -/

namespace Sys2Proof.Machine

/-! ### One operation -/

namespace State

@[simp] theorem queueView_start (s : State) : s.start.queueView = s.queueView := rfl

@[simp] theorem queueView_blocked (s : State) : s.blocked.queueView = s.queueView := rfl

@[simp] theorem queueView_answer (r : Result) (s : State) : (s.answer r).queueView = s.queueView := rfl

theorem length_queueView (s : State) : s.queueView.length = s.qcount := by simp [queueView]

theorem queueView_eq_nil_iff (s : State) : s.queueView = [] ↔ s.qcount = 0 := by
  rw [← List.length_eq_zero_iff, length_queueView]

end State

/-- Q_PUT with room appends its word and leaves the read cursor. -/
theorem exec_qPut_appends {s : State} (hi : EngineInv s) (hroom : s.qcount ≠ s.cfg.qcap) (v : Half) :
    ∃ t, exec (.qPut v) s = .next t ∧ t.result = .putOk true ∧ t.queueView = s.queueView ++ [v] ∧
      EngineInv t ∧ t.cfg = s.cfg ∧ t.qrd = s.qrd := by
  have hput := State.qPut_of_room (s := s.start) hroom v
  have hview : (s.start.qPut v).2.queueView = s.queueView ++ [v] :=
    State.queueView_put (s := s.start) v hi.queueLength (Nat.lt_of_le_of_ne hi.queueCount hroom)
      hi.queueRead hi.queueWrite
  have hinv : EngineInv (s.start.qPut v).2 := by
    rw [hput, ← State.deliver_of_room (s := s.start) hroom]
    exact inv_deliver (s := s.start) (inv_congr hi rfl) v
  refine ⟨_, exec_qPut_room hroom v, State.answer_result .., hview, inv_congr hinv rfl, ?cfg, ?cursor⟩
  case cfg => rw [hput]; rfl
  case cursor => rw [hput]; rfl

/-- A queue whose list has a head holds it at the read cursor, and a get leaves the tail. -/
theorem State.qTake_of_queueView_cons {s : State} (hi : EngineInv s) {w : Half} {rest : List Half}
    (hview : s.queueView = w :: rest) :
    s.qcount ≠ 0 ∧ s.qHead = w ∧ s.qTake.queueView = rest := by
  have hword : s.qcount ≠ 0 := by simp [← s.length_queueView, hview]
  rw [State.queueView_take hi.queueLength hword hi.queueRead, List.cons.injEq] at hview
  exact ⟨hword, hview⟩

/-- Q_GET_WAIT returns the head, leaves the tail and advances the read cursor. -/
theorem exec_qGetWait_takes {s : State} (hi : EngineInv s) {w : Half} {rest : List Half}
    (hview : s.queueView = w :: rest) :
    ∃ t, exec .qGetWait s = .next t ∧ t.result = .word w ∧ t.queueView = rest ∧
      EngineInv t ∧ t.cfg = s.cfg ∧ t.qrd = (s.qrd + 1) % s.cfg.qcap := by
  obtain ⟨hword, rfl, hrest⟩ := State.qTake_of_queueView_cons hi hview
  exact ⟨_, exec_qGetWait_word hword, rfl, hrest, inv_congr (inv_qTake hi hword) rfl, rfl, rfl⟩

/-! ### A run of puts, a run of gets -/

theorem runAnswers_cons_of_some {i : Instr} {is : List Instr} {rs : List Result} {s t u : State}
    (hi : exec i s = .next t) (his : runAnswers is t = some (rs, u)) :
    runAnswers (i :: is) s = some (t.result :: rs, u) := by
  rw [runAnswers_cons hi, his, Option.map_some]

/-- The answers of a run in two pieces. -/
theorem runAnswers_append {is js : List Instr} {rs qs : List Result} {s t u : State}
    (his : runAnswers is s = some (rs, t)) (hjs : runAnswers js t = some (qs, u)) :
    runAnswers (is ++ js) s = some (rs ++ qs, u) := by
  induction is generalizing s rs with
  | nil => cases his; exact hjs
  | cons i is ih =>
    cases he : exec i s with
    | next s' =>
      rw [runAnswers_cons he, Option.map_eq_some_iff] at his
      obtain ⟨⟨rs', t'⟩, hrun, hpair⟩ := his
      cases hpair
      exact runAnswers_cons_of_some he (ih hrun)
    | fault r => simp [runAnswers, he] at his
    | refused r => simp [runAnswers, he] at his

/-- As many puts as there is room for succeed and append their words in order. -/
theorem runAnswers_puts {s : State} (hi : EngineInv s) (vs : List Half)
    (hroom : s.qcount + vs.length ≤ s.cfg.qcap) :
    ∃ t, runAnswers (vs.map .qPut) s = some (List.replicate vs.length (.putOk true), t) ∧
      t.queueView = s.queueView ++ vs ∧ EngineInv t ∧ t.cfg = s.cfg ∧ t.qrd = s.qrd := by
  induction vs generalizing s with
  | nil => exact ⟨s, rfl, (List.append_nil _).symm, hi, rfl, rfl⟩
  | cons v vs ih =>
    rw [List.length_cons] at hroom
    obtain ⟨t, hput, hresult, hview, hti, hcfg, hqrd⟩ := exec_qPut_appends hi (by omega) v
    have hcount : t.qcount = s.qcount + 1 := by
      rw [← t.length_queueView, hview, List.length_append, s.length_queueView, List.length_singleton]
    obtain ⟨u, hrun, huview, hui, hucfg, huqrd⟩ := ih hti (by rw [hcfg, hcount]; omega)
    refine ⟨u, ?run, ?view, hui, hucfg.trans hcfg, huqrd.trans hqrd⟩
    case run => rw [List.map_cons, runAnswers_cons_of_some hput hrun, hresult]; rfl
    case view => rw [huview, hview, List.append_assoc, List.singleton_append]

/-- As many gets as there are words return them in order and leave the queue empty. -/
theorem runAnswers_gets {s : State} (hi : EngineInv s) {vs : List Half} (hview : s.queueView = vs) :
    ∃ t, runAnswers (List.replicate vs.length .qGetWait) s = some (vs.map .word, t) ∧
      t.queueView = [] ∧ EngineInv t ∧ t.cfg = s.cfg ∧ t.qrd = (s.qrd + vs.length) % s.cfg.qcap := by
  induction vs generalizing s with
  | nil => exact ⟨s, rfl, hview, hi, rfl, (Nat.mod_eq_of_lt hi.queueRead).symm⟩
  | cons v vs ih =>
    obtain ⟨t, hget, hresult, htview, hti, hcfg, hqrd⟩ := exec_qGetWait_takes hi hview
    obtain ⟨u, hrun, huview, hui, hucfg, huqrd⟩ := ih hti htview
    refine ⟨u, ?run, huview, hui, hucfg.trans hcfg, ?cursor⟩
    case run =>
      rw [List.length_cons, List.replicate_succ, runAnswers_cons_of_some hget hrun, hresult]
      rfl
    case cursor =>
      rw [huqrd, hcfg, hqrd, Nat.mod_add_mod, Nat.add_assoc, Nat.add_comm 1, List.length_cons]

/-- From an empty queue QCAP puts, one more and QCAP gets (R207): the gets advance the read cursor once
around, and the invariant puts the write cursor of an empty queue at the read cursor. -/
theorem runAnswers_fill_and_drain {s : State} (hi : EngineInv s) (vs : List Half) (extra : Half)
    (hempty : s.qcount = 0) (hlen : vs.length = s.cfg.qcap) : ∃ t : State,
    runAnswers (vs.map .qPut ++ [.qPut extra] ++ List.replicate vs.length .qGetWait) s =
      some (List.replicate vs.length (.putOk true) ++ [.putOk false] ++ vs.map .word, t) ∧
    t.qcount = 0 ∧ t.qrd = s.qrd ∧ t.qwr = s.qwr := by
  obtain ⟨a, hputs, haview, hai, hacfg, haqrd⟩ := runAnswers_puts hi vs (by omega)
  rw [State.queueView_nil hempty, List.nil_append] at haview
  have hfull : a.qcount = a.cfg.qcap := by rw [← a.length_queueView, haview, hlen, hacfg]
  have hextra := runAnswers_cons_of_some (exec_qPut_full hfull extra) (runAnswers_nil _)
  obtain ⟨t, hgets, htview, hti, htcfg, htqrd⟩ :=
    runAnswers_gets (s := a.start.answer (.putOk false)) (inv_congr hai rfl) haview
  have hcfg : t.cfg = s.cfg := htcfg.trans hacfg
  have hcount : t.qcount = 0 := t.queueView_eq_nil_iff.mp htview
  have hqrd : t.qrd = s.qrd := by
    rw [htqrd, State.answer_qrd, State.start_qrd, State.answer_cfg, State.start_cfg, haqrd, hacfg, hlen,
      Nat.add_mod_right, Nat.mod_eq_of_lt hi.queueRead]
  have hqwr : t.qwr = s.qwr := by
    rw [hti.queueWrite, hi.queueWrite, hqrd, hcount, hempty, hcfg]
  exact ⟨t, runAnswers_append (runAnswers_append hputs hextra) hgets, hcount, hqrd, hqwr⟩

/-- Settles O36: the run is `runAnswers_fill_and_drain`; each single operation is the list operation of
`exec_qPut_appends` or `qTake_of_queueView_cons`, or leaves the queue alone where it is full or empty. -/
theorem queueIsFifoOfItsCapacity : Obligations.QueueIsFifoOfItsCapacity := by
  intro s hi
  refine ⟨runAnswers_fill_and_drain hi, s.length_queueView, fun v => ?put, fun w rest hview => ?word,
    fun hnil => ?empty⟩
  case put =>
    split
    next hfull => exact ⟨_, exec_qPut_full hfull v, rfl, rfl⟩
    next hroom =>
      obtain ⟨t, hput, hresult, hview, -⟩ := exec_qPut_appends hi hroom v
      exact ⟨t, hput, hresult, hview⟩
  case word =>
    obtain ⟨hword, rfl, hrest⟩ := State.qTake_of_queueView_cons hi hview
    exact ⟨⟨_, exec_qGetWait_word hword, rfl, hrest⟩, ⟨_, exec_qGetNowait_word hword, rfl, hrest⟩⟩
  case empty =>
    have hempty := s.queueView_eq_nil_iff.mp hnil
    exact ⟨⟨_, exec_qGetWait_empty hempty, rfl, hnil⟩, ⟨_, exec_qGetNowait_empty hempty, rfl, hnil⟩⟩

end Sys2Proof.Machine
end

section
/-! PROOFS. The dispatcher's steps that contain READ: IDLE, HEADER and CW_RX (44_dispatcher.md R225, R226, R237, R242). -/

namespace Sys2Proof.Machine

namespace State

/-! ### A step in its DSTATE, and READ inside it -/

theorem inState_of_eq {s : State} {d : DState} (h : s.dstate = d) (step : State → StepOutcome) :
    s.inState d step = step s := if_pos h

/-- READ returns a value only from RD_WAIT and only if the queue holds a word (42_receive.md R181). -/
theorem readStep_eq_value {s t : State} {v : Half} (h : s.readStep = .value v t) :
    s.rdphase = .wait ∧ s.qcount ≠ 0 := by
  cases hphase : s.rdphase with
  | start =>
    simp only [readStep, hphase] at h
    split at h
    · cases h
    · split at h <;> cases h
  | delay =>
    simp only [readStep, hphase] at h
    split at h <;> cases h
  | wait =>
    refine ⟨rfl, fun hempty => ?_⟩
    rw [readStep_empty hphase hempty] at h
    cases h
  | reserved =>
    rw [readStep_reserved hphase] at h
    cases h

/-- Until READ returns, what follows it in its step makes no difference. -/
theorem afterRead_of_no_word {s : State}
    (h : s.rdphase = .start ∨ s.rdphase = .delay ∨ s.rdphase = .wait ∧ s.qcount = 0)
    (go go' : Half → State → State) :
    ∃ t, s.afterRead go = .next t ∧ s.afterRead go' = .next t := by
  have hnamed : s.rdphase ≠ .reserved := by
    rcases h with h | h | ⟨h, -⟩ <;> simp [h]
  have hsame : s.afterRead go = s.afterRead go' := by
    unfold afterRead
    cases hread : s.start.readStep with
    | waiting => rfl
    | moved t => rfl
    | value v t =>
      obtain ⟨hwait, hword⟩ := readStep_eq_value hread
      rw [start_rdphase] at hwait
      rw [start_qcount] at hword
      simp [hwait, hword] at h
    | stuck => rfl
  obtain ⟨t, ht⟩ := afterRead_next hnamed go
  exact ⟨t, ht, hsame.symm.trans ht⟩

/-- In RD_WAIT a queued word is taken, and what follows READ gets it, masked to `W` bits. -/
theorem afterRead_of_word {s : State} (hcursor : s.qrd < s.qbuf.length) (hwait : s.rdphase = .wait)
    (hword : s.qcount ≠ 0) (go : Half → State → State) :
    s.afterRead go =
      .next (go (maskData s.cfg s.qbuf[s.qrd]) { s.start.qTake with rdphase := .start }) := by
  have hhead : s.start.qHead = s.qbuf[s.qrd] := qHead_of_lt (s := s.start) hcursor
  rw [afterRead, readStep_value (s := s.start) hwait hword, hhead, start_cfg]

end State

theorem exec_read (s : State) :
    exec .read s = s.afterRead fun v t => t.answer (.value v) := rfl

/-- Masking to `W` bits, at least 8 of them, keeps the low byte (44_dispatcher.md R242). -/
theorem lowByte_maskData (c : Config) (x : Half) : lowByte (maskData c x) = x.setWidth 8 := by
  have hw : 8 ≤ c.w := by rcases c.w_cases with h | h <;> omega
  apply BitVec.eq_of_getLsbD_eq
  intro i hi
  have hiw : i < c.w := by omega
  have hi16 : i < 16 := by omega
  simp [lowByte, maskData, hi, hiw, hi16]

/-! ### IDLE -/

theorem exec_idle {s : State} (h : s.dstate = .idle) :
    exec .idle s = s.afterRead fun v t =>
      if lowByte v = cla then
        { t with cmdbuf := Memory.store t.cmdbuf 0 (lowByte v), didx := 1, dstate := .header }
      else t := State.inState_of_eq h _

/-- Settles O40: until a word is taken the step is READ's, and then its low byte decides; `read_store` says
what CMDBUF reads as after the one store. -/
theorem idleHuntsForTheClassByte : Obligations.IdleHuntsForTheClassByte := by
  intro s hidle hwf
  rw [exec_idle hidle, exec_read]
  refine ⟨fun hphase => State.afterRead_of_no_word hphase _ _, fun hcursor hwait hword => ?taken⟩
  case taken =>
    rw [State.afterRead_of_word hcursor hwait hword, lowByte_maskData]
    refine ⟨fun hother => ?other, fun hclass => ⟨Memory.store s.cmdbuf 0 0x53#8, ?next, ?stored, ?kept⟩⟩
    case other => rw [if_neg (show _ ≠ cla from hother)]; rfl
    case next => rw [if_pos (show _ = cla from hclass), hclass]; rfl
    case stored => rw [Memory.read_store hwf, if_pos (by decide)]
    case kept =>
      intro a ha
      rw [Memory.read_store hwf, if_neg fun h => ha h.1]

/-! ### HEADER -/

theorem exec_header {s : State} (h : s.dstate = .header) :
    exec .header s = s.afterRead fun v t =>
      { t with
        cmdbuf := Memory.store t.cmdbuf t.didx.toNat (lowByte v), didx := t.didx + 1
        dstate := if t.didx + 1 = 5 then .dispatch else t.dstate } := State.inState_of_eq h _

/-- Settles O41: until a word is taken the step is READ's, and then its low byte is stored at DIDX, an index
of CMDBUF. -/
theorem headerStoresItsBytes : Obligations.HeaderStoresItsBytes := by
  intro s hheader hwf
  rw [exec_header hheader, exec_read]
  refine ⟨fun hphase => State.afterRead_of_no_word hphase _ _, fun hcursor hwait hword hdidx => ?taken⟩
  case taken =>
    rw [State.afterRead_of_word hcursor hwait hword, lowByte_maskData]
    refine ⟨Memory.store s.cmdbuf s.didx.toNat (s.qbuf[s.qrd].setWidth 8), ?next, ?stored, ?kept⟩
    case next => rw [← hheader]; rfl
    case stored => rw [Memory.read_store hwf, if_pos ⟨rfl, hdidx⟩]
    case kept =>
      intro a ha
      rw [Memory.read_store hwf, if_neg fun h => ha h.1]

/-! ### CW_RX -/

theorem exec_cwRx {s : State} (h : s.dstate = .cwRx) :
    exec .cwRx s = s.afterRead fun v t =>
      let stored := { t with cmdbuf := Memory.store t.cmdbuf (5 + t.didx.toNat) (lowByte v) }
      if (t.didx + 1).toNat = cwPayloadLen then { stored with didx := 0, dstate := .trailerTx }
      else { stored with didx := t.didx + 1 } := State.inState_of_eq h _

/-- Settles O47: until a word is taken the step is READ's, and then its low byte is stored behind the
header, where CMDBUF has that index; DIDX tells whether it was the 32nd. -/
theorem cwPayloadIsSwallowed : Obligations.CwPayloadIsSwallowed := by
  intro s hcwRx hwf
  rw [exec_cwRx hcwRx, exec_read]
  refine ⟨fun hphase => State.afterRead_of_no_word hphase _ _, fun hcursor hwait hword => ?taken⟩
  case taken =>
    rw [State.afterRead_of_word hcursor hwait hword, lowByte_maskData]
    refine ⟨Memory.store s.cmdbuf (5 + s.didx.toNat) (s.qbuf[s.qrd].setWidth 8), ?next, fun a => ?reads⟩
    case next =>
      by_cases hlast : s.didx + 1 = 32
      · have hcount : (s.didx + 1).toNat = cwPayloadLen := congrArg BitVec.toNat hlast
        rw [if_pos hlast, if_pos hlast]
        exact congrArg _ (if_pos hcount)
      · have hcount : (s.didx + 1).toNat ≠ cwPayloadLen := fun h => hlast (BitVec.eq_of_toNat_eq h)
        rw [if_neg hlast, if_neg hlast, ← hcwRx]
        exact congrArg _ (if_neg hcount)
    case reads =>
      have hindex : (a = 5 + s.didx.toNat ∧ 5 + s.didx.toNat < cmdbufLen) ↔
          (a = 5 + s.didx.toNat ∧ a ≤ 31) := by
        unfold cmdbufLen
        omega
      rw [Memory.read_store hwf, if_congr hindex rfl rfl]

end Sys2Proof.Machine
end

section
/-! PROOFS. The dispatcher's steps that send a byte: ATR_TX and ATR_DRAIN, BODY_TX, CW_ECHO and TRAILER_TX (44_dispatcher.md R222, R223, R230, R236, R239). -/

namespace Sys2Proof.Machine

namespace State

@[simp] theorem loadFrame_dstate (code : Half) (s : State) : (s.loadFrame code).dstate = s.dstate := by
  obtain ⟨_, _, _, _, _, _, _, h⟩ := s.loadFrame_frame code
  rw [h]

@[simp] theorem loadFrame_didx (code : Half) (s : State) : (s.loadFrame code).didx = s.didx := by
  obtain ⟨_, _, _, _, _, _, _, h⟩ := s.loadFrame_frame code
  rw [h]

end State

theorem exec_sendByte_drained {s : State} (h : s.txArmed = false) (b : Byte) :
    exec (.sendByte b) s = .next (s.start.loadFrame (s.byteCode b)) := by
  rw [exec_sendByte, exec_send_drained h]

/-- A dispatcher step that sends a byte, with the engine drained, is SEND_BYTE and what follows it. -/
theorem sendByte_then {s : State} (h : s.txArmed = false) (b : Byte) {go go' : State → State}
    (hgo : ∀ t : State, t.dstate = s.dstate → t.didx = s.didx → go t = go' t) :
    ∃ t, exec (.sendByte b) s = .next t ∧ s.afterSend (s.byteCode b) go = .next (go' t) := by
  refine ⟨_, exec_sendByte_drained h b, ?_⟩
  rw [State.afterSend_of_drained h,
    hgo _ (State.loadFrame_dstate _ s.start) (State.loadFrame_didx _ s.start)]

/-- An index inside a table reads the table's byte. -/
theorem tableByte_of_lt {t : List Byte} {i : Nat} (h : i < t.length) : tableByte t i = t[i] := by
  rw [tableByte, List.getElem?_eq_getElem h, Option.getD_some]

/-! ### ATR_TX and ATR_DRAIN -/

theorem exec_atrTx {s : State} (h : s.dstate = .atrTx) :
    exec .atrTx s = s.afterSend (s.byteCode (tableByte s.cfg.atr s.didx.toNat)) fun t =>
      { t with didx := t.didx + 1, dstate := if t.didx + 1 = 16 then .atrDrain else t.dstate } :=
  State.inState_of_eq h _

theorem exec_atrDrain {s : State} (h : s.dstate = .atrDrain) :
    exec .atrDrain s =
      if s.txBusy then .next s.blocked else .next { s.start with dstate := .modeSwitch } := if_pos h

/-- Settles O38: ATR_TX is SEND_BYTE with its count, by `sendByte_then`; ATR_DRAIN only waits. -/
theorem atrIsSentAndDrained : Obligations.AtrIsSentAndDrained := by
  intro s
  refine ⟨fun hatr hbusy => ?blocked, fun hindex hatr hdrained => ?sent,
    fun hdrain hbusy => ?waits, fun hdrain hdrained => ?drained⟩
  case blocked => rw [exec_atrTx hatr, State.afterSend_of_busy hbusy, State.blocked]
  case sent =>
    rw [exec_atrTx hatr, tableByte_of_lt hindex]
    exact sendByte_then hdrained _ fun t hdstate hdidx => by rw [hdstate, hdidx, hatr]
  case waits => rw [exec_atrDrain hdrain, if_pos (show s.txBusy = true from hbusy), State.blocked]
  case drained =>
    rw [exec_atrDrain hdrain, if_neg (show ¬ s.txBusy = true from Bool.eq_false_iff.mp hdrained)]
    rfl

/-! ### BODY_TX, CW_ECHO and TRAILER_TX -/

theorem exec_bodyTx {s : State} (h : s.dstate = .bodyTx) :
    exec .bodyTx s =
      s.afterSend (s.byteCode (tableByte (resp s.cfg (Memory.read s.cmdbuf 1)) s.didx.toNat)) fun t =>
        if (t.didx + 1).toNat = (resp s.cfg (Memory.read s.cmdbuf 1)).length then
          { t with didx := 0, dstate := .trailerTx }
        else { t with didx := t.didx + 1 } := State.inState_of_eq h _

theorem exec_cwEcho {s : State} (h : s.dstate = .cwEcho) :
    exec .cwEcho s = s.afterSend (s.byteCode (Memory.read s.cmdbuf 1)) fun t =>
      { t with didx := 0, dstate := .cwRx } := State.inState_of_eq h _

theorem exec_trailerTx {s : State} (h : s.dstate = .trailerTx) :
    exec .trailerTx s = s.afterSend (s.byteCode (tableByte trailer s.didx.toNat)) fun t =>
      { t with didx := t.didx + 1, dstate := if t.didx + 1 = 2 then .clear else t.dstate } :=
  State.inState_of_eq h _

/-- Settles O46: a busy engine blocks SEND and with it each of the steps; drained, each is SEND_BYTE with
its count, by `sendByte_then`, and TRAILER_TX's two bytes are those of `trailer`. -/
theorem responseStepsSendTheirByte : Obligations.ResponseStepsSendTheirByte := by
  intro s
  refine ⟨fun hbusy hbody => ?bodyBlocked, fun hbusy hecho => ?echoBlocked,
    fun hbusy htrailer => ?trailerBlocked, fun hindex hdrained hbody => ?body,
    fun hdrained hecho => ?echo, fun hdrained htrailer hfirst => ?trailerFirst,
    fun hdrained htrailer hsecond => ?trailerSecond⟩
  case bodyBlocked => rw [exec_bodyTx hbody, State.afterSend_of_busy hbusy, State.blocked]
  case echoBlocked => rw [exec_cwEcho hecho, State.afterSend_of_busy hbusy, State.blocked]
  case trailerBlocked => rw [exec_trailerTx htrailer, State.afterSend_of_busy hbusy, State.blocked]
  case body =>
    rw [exec_bodyTx hbody, tableByte_of_lt hindex]
    exact sendByte_then hdrained _ fun t _ hdidx => by rw [hdidx]
  case echo =>
    rw [exec_cwEcho hecho]
    exact sendByte_then hdrained _ fun t _ _ => rfl
  case trailerFirst =>
    rw [exec_trailerTx htrailer, hfirst]
    exact sendByte_then hdrained _ fun t _ hdidx => by rw [hdidx, hfirst]; rfl
  case trailerSecond =>
    rw [exec_trailerTx htrailer, hsecond]
    exact sendByte_then hdrained _ fun t _ hdidx => by rw [hdidx, hsecond]; rfl

end Sys2Proof.Machine
end

section
/-! PROOFS. DISPATCH's selection by the instruction byte (44_dispatcher.md R227, R228, 60_exceptions.md R263). -/

namespace Sys2Proof

/-! ### The named instruction bytes -/

namespace Config

/-- The named instruction bytes of a build that is not refused are distinct (00_scope.md R6). -/
theorem namedIns_ne {c : Config} (h : c.ok = true) (i j : Fin 6) (hij : i ≠ j := by decide) :
    c.namedIns.get i ≠ c.namedIns.get j := by
  obtain ⟨-, -, -, -, -, -, -, -, -, -, -, -, hnodup, -⟩ := of_decide_eq_true h
  exact fun heq => hij (hnodup.injective_get heq)

theorem named_iff_mem (c : Config) (ins : Byte) : c.named ins = true ↔ ins ∈ c.namedIns :=
  List.contains_iff_mem

end Config

namespace Machine

/-! ### The response tables -/

theorem resp_insSerial (c : Config) : resp c insSerial = c.serialTable := rfl

theorem resp_insSeed (c : Config) : resp c insSeed = seedTable := rfl

theorem resp_insMsg {c : Config} (h : c.ok = true) : resp c c.insMsg = c.msgTable := by
  have hserial : c.insMsg ≠ insSerial := Config.namedIns_ne h 3 0
  have hseed : c.insMsg ≠ insSeed := Config.namedIns_ne h 3 1
  rw [resp, if_neg hserial, if_neg hseed, if_pos rfl]

theorem resp_insMbox {c : Config} (h : c.ok = true) : resp c c.insMbox = c.mboxTable := by
  have hserial : c.insMbox ≠ insSerial := Config.namedIns_ne h 4 0
  have hseed : c.insMbox ≠ insSeed := Config.namedIns_ne h 4 1
  have hmsg : c.insMbox ≠ c.insMsg := Config.namedIns_ne h 4 3
  rw [resp, if_neg hserial, if_neg hseed, if_neg hmsg, if_pos rfl]

/-- Every other instruction byte has no response table (44_dispatcher.md R228). -/
theorem resp_eq_nil {c : Config} {ins : Byte} (hserial : ins ≠ insSerial) (hseed : ins ≠ insSeed)
    (hmsg : ins ≠ c.insMsg) (hmbox : ins ≠ c.insMbox) : resp c ins = [] := by
  rw [resp, if_neg hserial, if_neg hseed, if_neg hmsg, if_neg hmbox]

theorem resp_insAuth {c : Config} (h : c.ok = true) : resp c c.insAuth = [] :=
  resp_eq_nil (Config.namedIns_ne h 2 0) (Config.namedIns_ne h 2 1) (Config.namedIns_ne h 2 3)
    (Config.namedIns_ne h 2 4)

/-! ### The selection -/

namespace State

theorem selectAction_dstate_cw (s : State) : (s.selectAction s.cfg.insCw).dstate = .cwEcho := if_pos rfl

/-- A byte other than INS_CW is answered from its response table, or by the trailer alone. -/
theorem selectAction_dstate_of_resp {s : State} {ins : Byte} {table : List Byte}
    (hcw : ins ≠ s.cfg.insCw) (htable : resp s.cfg ins = table) :
    (s.selectAction ins).dstate = if table = [] then .trailerTx else .bodyTx := by
  rw [selectAction_dstate, if_neg hcw, htable]

end State

theorem exec_dispatch {s : State} (h : s.dstate = .dispatch) :
    exec .dispatch s = .next (s.start.selectAction (Memory.read s.cmdbuf 1)) := if_pos h

/-- Settles O42: the selection is `selectAction` of CMDBUF[1]; the named bytes are distinct, so each finds
its own table and only INS_CW the echo. -/
theorem dispatchSelectsByInstructionByte : Obligations.DispatchSelectsByInstructionByte := by
  intro s hok hdispatch
  refine ⟨(s.start.selectAction (Memory.read s.cmdbuf 1)).dstate,
    (s.start.selectAction (Memory.read s.cmdbuf 1)).raised, exec_dispatch hdispatch, ?_⟩
  generalize Memory.read s.cmdbuf 1 = ins
  refine ⟨?cw, ?serial, ?seed, ?msg, ?mbox, ?auth, fun hunknown => ⟨?trailer, ?raised⟩,
    fun hnamed => ?quiet⟩
  case cw => rintro rfl; exact s.start.selectAction_dstate_cw
  case serial =>
    rintro rfl
    exact State.selectAction_dstate_of_resp (Config.namedIns_ne hok 0 5) (resp_insSerial s.cfg)
  case seed =>
    rintro rfl
    exact State.selectAction_dstate_of_resp (Config.namedIns_ne hok 1 5) (resp_insSeed s.cfg)
  case msg =>
    rintro rfl
    exact State.selectAction_dstate_of_resp (s := s.start) (Config.namedIns_ne hok 3 5) (resp_insMsg hok)
  case mbox =>
    rintro rfl
    exact State.selectAction_dstate_of_resp (s := s.start) (Config.namedIns_ne hok 4 5) (resp_insMbox hok)
  case auth =>
    rintro rfl
    exact State.selectAction_dstate_of_resp (s := s.start) (Config.namedIns_ne hok 2 5) (resp_insAuth hok)
  case trailer =>
    simp only [List.mem_cons, not_or] at hunknown
    obtain ⟨hserial, hseed, -, hmsg, hmbox, hcw, -⟩ := hunknown
    exact State.selectAction_dstate_of_resp (s := s.start) hcw (resp_eq_nil hserial hseed hmsg hmbox)
  case raised => exact if_neg (mt (s.cfg.named_iff_mem ins).mp hunknown)
  case quiet => exact if_pos ((s.cfg.named_iff_mem ins).mpr hnamed)

end Machine

end Sys2Proof
end

section
/-! PROOFS. BOOT and CLEAR, which wait for nothing (44_dispatcher.md R221, R240). -/

namespace Sys2Proof.Machine

theorem exec_boot {s : State} (h : s.dstate = .boot) :
    exec .boot s = .next { s.start.configure .handshake with didx := 0, dstate := .atrTx } := if_pos h

/-- Settles O37: BOOT's next state is CONFIGURE's with DIDX and DSTATE set. -/
theorem bootConfiguresTheHandshakeRate : Obligations.BootConfiguresTheHandshakeRate := by
  intro s hboot
  rw [exec_boot hboot, State.configure, State.start_cfg, periodOf_handshake]
  rfl

theorem exec_clear {s : State} (h : s.dstate = .clear) :
    exec .clear s = .next { s.start with cmdbuf := [], didx := 0, dstate := .idle } := if_pos h

/-- Settles O48: CLEAR leaves the empty buffer, which reads 0 everywhere. -/
theorem clearZeroesTheBuffer : Obligations.ClearZeroesTheBuffer := by
  intro s hclear
  exact ⟨[], exec_clear hclear, Memory.read_nil⟩

end Sys2Proof.Machine
end

section
/-! PROOFS. MODE_SWITCH, and that no other instruction but RESET writes MODE (10_state.md R21, 44_dispatcher.md R224). -/

namespace Sys2Proof.Machine

/-! ### The shared operations leave MODE alone -/

namespace State

variable (s : State)

@[simp] theorem qPut_mode (v : Half) : (s.qPut v).2.mode = s.mode := by
  unfold qPut
  split <;> rfl

@[simp] theorem finalize_mode : s.finalize.mode = s.mode := by
  obtain ⟨_, _, _, _, h⟩ := s.finalize_frame
  rw [h]

@[simp] theorem sample_mode (l : Level) : (s.sample l).mode = s.mode := by
  obtain ⟨_, _, _, _, _, _, _, h⟩ := s.sample_frame l
  rw [h]

@[simp] theorem tick_mode : s.tick.mode = s.mode := by
  obtain ⟨_, _, h⟩ := s.tick_frame
  rw [h]

@[simp] theorem loadFrame_mode (code : Half) : (s.loadFrame code).mode = s.mode := by
  obtain ⟨_, _, _, _, _, _, _, h⟩ := s.loadFrame_frame code
  rw [h]

@[simp] theorem clockCycle_mode (l : Level) : (s.clockCycle l).mode = s.mode := by
  obtain ⟨_, _, _, _, _, _, _, _, _, _, _, _, _, _, _, h⟩ := s.clockCycle_frame l
  rw [h]

end State

/-! ### Outcomes that keep MODE -/

/-- MODE's frame as a predicate on outcomes, so that a step's frame follows from those of the operations it
is built of; a stop has no next state to speak of. -/
def KeepsMode (s : State) (o : StepOutcome) : Prop := ∀ t, o = .next t → t.mode = s.mode

section
variable {s : State}

theorem keepsMode_next {t : State} (h : t.mode = s.mode) : KeepsMode s (.next t) := by
  rintro _ ⟨⟩
  exact h

theorem keepsMode_ite {c : Prop} [Decidable c] {o o' : StepOutcome} (h : KeepsMode s o)
    (h' : KeepsMode s o') : KeepsMode s (if c then o else o') := by
  split
  · exact h
  · exact h'

/-- An operation with a guard: blocked, or a next state. -/
theorem keepsMode_guarded {c : Prop} [Decidable c] {t t' : State} (h : t.mode = s.mode)
    (h' : t'.mode = s.mode) : KeepsMode s (if c then .next t else .next t') :=
  keepsMode_ite (keepsMode_next h) (keepsMode_next h')

theorem keepsMode_inState {d : DState} {f : State → StepOutcome} (h : KeepsMode s (f s)) :
    KeepsMode s (s.inState d f) := keepsMode_ite h (keepsMode_next rfl)

theorem keepsMode_runCommand (ins : Byte) : KeepsMode s (s.runCommand ins) := keepsMode_guarded rfl rfl

theorem keepsMode_afterSend {code : Half} {go : State → State} (hgo : ∀ t, (go t).mode = t.mode) :
    KeepsMode s (s.afterSend code go) :=
  keepsMode_guarded rfl ((hgo _).trans (State.loadFrame_mode s.start code))

theorem keepsMode_afterRead {go : Half → State → State} (hgo : ∀ v t, (go v t).mode = t.mode) :
    KeepsMode s (s.afterRead go) := by
  intro t ht
  rcases State.afterRead_cases ht with rfl | ⟨-, -, rfl⟩ | ⟨-, -, -, rfl⟩ | ⟨-, -, -, rfl⟩ | ⟨-, -, rfl⟩
  · rfl
  · rfl
  · rfl
  · rfl
  · exact hgo _ _

/-- MODE_SWITCH and RESET are the only writers of MODE (10_state.md R21). -/
theorem exec_keepsMode {i : Instr} (hswitch : i ≠ .modeSwitch) (hreset : i ≠ .reset) :
    KeepsMode s (exec i s) := by
  cases i with
  | serial p1 p2 len => exact keepsMode_runCommand _
  | seed p1 p2 len => exact keepsMode_runCommand _
  | auth p1 p2 len => exact keepsMode_runCommand _
  | msg p1 p2 len => exact keepsMode_runCommand _
  | mbox p1 p2 len => exact keepsMode_runCommand _
  | cw p1 p2 len => exact keepsMode_runCommand _
  | unknown ins p1 p2 len => exact keepsMode_ite (keepsMode_next rfl) (keepsMode_runCommand ins)
  | configure rate => exact keepsMode_next rfl
  | clkTick l => exact keepsMode_next (s.start.clockCycle_mode l)
  | delay n =>
    rw [exec, execDelay]
    split
    · exact keepsMode_next rfl
    · exact keepsMode_guarded rfl rfl
  | encode v => exact keepsMode_next rfl
  | send code => exact keepsMode_afterSend fun _ => rfl
  | enterTx => exact keepsMode_guarded rfl rfl
  | sendByte b => exact keepsMode_afterSend fun _ => rfl
  | txTick => exact keepsMode_guarded s.start.tick_mode rfl
  | rxEdge => exact keepsMode_guarded rfl rfl
  | rxSample l => exact keepsMode_guarded (s.start.sample_mode l) rfl
  | rxFinalize => exact keepsMode_next s.start.finalize_mode
  | decode acc => exact keepsMode_next rfl
  | enterRx => exact keepsMode_guarded rfl rfl
  | read => exact keepsMode_afterRead fun _ _ => rfl
  | qPut v => exact keepsMode_next (s.start.qPut_mode v)
  | qGetWait => exact keepsMode_guarded rfl rfl
  | qGetNowait => exact keepsMode_guarded rfl rfl
  | boot => exact keepsMode_guarded rfl rfl
  | atrTx => exact keepsMode_inState (keepsMode_afterSend fun _ => rfl)
  | atrDrain => exact keepsMode_ite (keepsMode_guarded rfl rfl) (keepsMode_next rfl)
  | modeSwitch => exact absurd rfl hswitch
  | idle => exact keepsMode_inState (keepsMode_afterRead fun _ _ => by split <;> rfl)
  | header => exact keepsMode_inState (keepsMode_afterRead fun _ _ => rfl)
  | dispatch => exact keepsMode_guarded rfl rfl
  | bodyTx => exact keepsMode_inState (keepsMode_afterSend fun _ => by split <;> rfl)
  | cwEcho => exact keepsMode_inState (keepsMode_afterSend fun _ => rfl)
  | cwRx => exact keepsMode_inState (keepsMode_afterRead fun _ _ => by dsimp only; split <;> rfl)
  | trailerTx => exact keepsMode_inState (keepsMode_afterSend fun _ => rfl)
  | clear => exact keepsMode_guarded rfl rfl
  | reset => exact absurd rfl hreset

end

/-! ### MODE_SWITCH -/

theorem exec_modeSwitch {s : State} (h : s.dstate = .modeSwitch) :
    exec .modeSwitch s =
      .next { State.configure .operating { s.start with mode := .operating } with dstate := .idle } :=
  if_pos h

theorem exec_modeSwitch_blocked {s : State} (h : s.dstate ≠ .modeSwitch) :
    exec .modeSwitch s = .next s.blocked := if_neg h

/-- Settles O39: MODE_SWITCH's next state is CONFIGURE's with MODE and DSTATE set; MODE stays at OPERATING
by `exec_keepsMode`, and MODE_SWITCH, the only other writer, sets it to that. -/
theorem modeSwitchSelectsTheOperatingRate : Obligations.ModeSwitchSelectsTheOperatingRate := by
  intro s
  refine ⟨fun hdstate => ?configures, fun i t hreset hmode ht => ?stays⟩
  case configures =>
    rw [exec_modeSwitch hdstate, State.configure, periodOf_operating]
    rfl
  case stays =>
    by_cases hswitch : i = .modeSwitch
    · subst hswitch
      by_cases hdstate : s.dstate = .modeSwitch
      · rw [exec_modeSwitch hdstate] at ht
        cases ht
        rfl
      · rw [exec_modeSwitch_blocked hdstate] at ht
        cases ht
        exact hmode
    · exact (exec_keepsMode hswitch hreset t ht).trans hmode

end Sys2Proof.Machine
end

section
/-! PROOFS. The decoder and the encoder undo each other (30_encoding.md R107, R109, R118). -/

namespace Sys2Proof

/-! ### The bytes of an operand -/

/-- Adjacent bytes of a word, put together again. -/
theorem halfOf_extract (v : Half) : halfOf (v.extractLsb' 0 8) (v.extractLsb' 8 8) = v := by
  rw [halfOf, BitVec.extractLsb'_append_extractLsb'_eq_extractLsb' (show 8 = 0 + 8 from rfl),
    BitVec.extractLsb'_eq_self]

theorem wordOf_extract (v : BitVec 32) :
    wordOf (v.extractLsb' 0 8) (v.extractLsb' 8 8) (v.extractLsb' 16 8) (v.extractLsb' 24 8) = v := by
  rw [wordOf, BitVec.extractLsb'_append_extractLsb'_eq_extractLsb' (show 24 = 16 + 8 from rfl),
    BitVec.extractLsb'_append_extractLsb'_eq_extractLsb' (show 16 = 8 + 8 from rfl),
    BitVec.extractLsb'_append_extractLsb'_eq_extractLsb' (show 8 = 0 + 8 from rfl),
    BitVec.extractLsb'_eq_self]

theorem halfBytes_halfOf (lo hi : Byte) : halfBytes (halfOf lo hi) = [lo, hi] := by
  rw [halfBytes, halfOf, BitVec.extractLsb'_append_eq_right, BitVec.extractLsb'_append_eq_left]

theorem wordBytes_wordOf (b0 b1 b2 b3 : Byte) :
    wordBytes (wordOf b0 b1 b2 b3) = [b0, b1, b2, b3] := by
  have hlow {n : Nat} (hi : BitVec n) (lo : Byte) : (hi ++ lo).extractLsb' 0 8 = lo :=
    BitVec.extractLsb'_append_eq_right
  have hnext {n : Nat} (hi : BitVec n) (lo : Byte) (k : Nat) :
      (hi ++ lo).extractLsb' (k + 8) 8 = hi.extractLsb' k 8 :=
    BitVec.extractLsb'_append_eq_of_le (Nat.le_add_left 8 k)
  have h1 : (wordOf b0 b1 b2 b3).extractLsb' 8 8 = b1 := (hnext (b3 ++ b2 ++ b1) b0 0).trans (hlow _ b1)
  have h2 : (wordOf b0 b1 b2 b3).extractLsb' 16 8 = b2 :=
    (hnext (b3 ++ b2 ++ b1) b0 8).trans ((hnext (b3 ++ b2) b1 0).trans (hlow b3 b2))
  have h3 : (wordOf b0 b1 b2 b3).extractLsb' 24 8 = b3 :=
    (hnext (b3 ++ b2 ++ b1) b0 16).trans ((hnext (b3 ++ b2) b1 8).trans BitVec.extractLsb'_append_eq_left)
  rw [wordBytes, h1, h2, h3, show (wordOf b0 b1 b2 b3).extractLsb' 0 8 = b0 from hlow _ b0]

theorem bitOperand_bitByte (f : Bool → Instr) (b : Bool) (rest : List Byte) :
    bitOperand f (bitByte b :: rest) = .ok (f b, rest) := by
  cases b <;> rfl

theorem halfOperand_halfBytes {c : Config} {f : Half → Instr} {v : Half} (hwf : (f v).wf c = true)
    (rest : List Byte) : halfOperand c f (halfBytes v ++ rest) = .ok (f v, rest) := by
  simp [halfOperand, halfBytes, halfOf_extract, hwf]

theorem wordOperand_wordBytes (f : BitVec 32 → Instr) (v : BitVec 32) (rest : List Byte) :
    wordOperand f (wordBytes v ++ rest) = .ok (f v, rest) := by
  simp [wordOperand, wordBytes, wordOf_extract]

/-! ### The action of a header -/

theorem commandOf_serial (c : Config) (p1 p2 len : Byte) :
    commandOf c insSerial p1 p2 len = .serial p1 p2 len := rfl

theorem commandOf_seed (c : Config) (p1 p2 len : Byte) :
    commandOf c insSeed p1 p2 len = .seed p1 p2 len := rfl

section
variable {c : Config} (hok : c.ok = true) (p1 p2 len : Byte)
include hok

theorem commandOf_auth : commandOf c c.insAuth p1 p2 len = .auth p1 p2 len := by
  have hserial : c.insAuth ≠ insSerial := Config.namedIns_ne hok 2 0
  have hseed : c.insAuth ≠ insSeed := Config.namedIns_ne hok 2 1
  rw [commandOf, if_neg hserial, if_neg hseed, if_pos rfl]

theorem commandOf_msg : commandOf c c.insMsg p1 p2 len = .msg p1 p2 len := by
  have hserial : c.insMsg ≠ insSerial := Config.namedIns_ne hok 3 0
  have hseed : c.insMsg ≠ insSeed := Config.namedIns_ne hok 3 1
  have hauth : c.insMsg ≠ c.insAuth := Config.namedIns_ne hok 3 2
  rw [commandOf, if_neg hserial, if_neg hseed, if_neg hauth, if_pos rfl]

theorem commandOf_mbox : commandOf c c.insMbox p1 p2 len = .mbox p1 p2 len := by
  have hserial : c.insMbox ≠ insSerial := Config.namedIns_ne hok 4 0
  have hseed : c.insMbox ≠ insSeed := Config.namedIns_ne hok 4 1
  have hauth : c.insMbox ≠ c.insAuth := Config.namedIns_ne hok 4 2
  have hmsg : c.insMbox ≠ c.insMsg := Config.namedIns_ne hok 4 3
  rw [commandOf, if_neg hserial, if_neg hseed, if_neg hauth, if_neg hmsg, if_pos rfl]

theorem commandOf_cw : commandOf c c.insCw p1 p2 len = .cw p1 p2 len := by
  have hserial : c.insCw ≠ insSerial := Config.namedIns_ne hok 5 0
  have hseed : c.insCw ≠ insSeed := Config.namedIns_ne hok 5 1
  have hauth : c.insCw ≠ c.insAuth := Config.namedIns_ne hok 5 2
  have hmsg : c.insCw ≠ c.insMsg := Config.namedIns_ne hok 5 3
  have hmbox : c.insCw ≠ c.insMbox := Config.namedIns_ne hok 5 4
  rw [commandOf, if_neg hserial, if_neg hseed, if_neg hauth, if_neg hmsg, if_neg hmbox, if_pos rfl]

end

theorem commandOf_unknown {c : Config} {ins : Byte} (hunnamed : c.named ins = false) (p1 p2 len : Byte) :
    commandOf c ins p1 p2 len = .unknown ins p1 p2 len := by
  have hnot : ins ∉ c.namedIns := fun h => by simp [(c.named_iff_mem ins).mpr h] at hunnamed
  simp only [Config.namedIns, List.mem_cons, not_or] at hnot
  obtain ⟨hserial, hseed, hauth, hmsg, hmbox, hcw, -⟩ := hnot
  rw [commandOf, if_neg hserial, if_neg hseed, if_neg hauth, if_neg hmsg, if_neg hmbox, if_neg hcw]

/-- A header decodes to the action of its instruction byte. -/
theorem decode_header {c : Config} {ins p1 p2 len : Byte} {i : Instr}
    (hi : commandOf c ins p1 p2 len = i) (rest : List Byte) :
    decode c ([cla, ins, p1, p2, len] ++ rest) = .ok (i, rest) := by
  rw [← hi]
  rfl

/-- Settles O2: a wire command's header decodes to its action, since the named bytes are distinct; an
operation's number selects its row, and each kind of operand reads back the bytes it was written as. -/
theorem encodedInstructionDecodes : Obligations.EncodedInstructionDecodes := by
  intro c i rest hok hwf
  cases i with
  | serial p1 p2 len => exact decode_header (commandOf_serial ..) rest
  | seed p1 p2 len => exact decode_header (commandOf_seed ..) rest
  | auth p1 p2 len => exact decode_header (commandOf_auth hok ..) rest
  | msg p1 p2 len => exact decode_header (commandOf_msg hok ..) rest
  | mbox p1 p2 len => exact decode_header (commandOf_mbox hok ..) rest
  | cw p1 p2 len => exact decode_header (commandOf_cw hok ..) rest
  | unknown ins p1 p2 len =>
    have hunnamed : c.named ins = false := (Bool.not_eq_true' _).mp hwf
    exact decode_header (commandOf_unknown hunnamed ..) rest
  | configure rate => cases rate <;> rfl
  | clkTick l => exact bitOperand_bitByte .clkTick l rest
  | delay n => exact wordOperand_wordBytes .delay n rest
  | encode v => exact halfOperand_halfBytes hwf rest
  | send code => exact halfOperand_halfBytes hwf rest
  | enterTx => rfl
  | sendByte b => rfl
  | txTick => rfl
  | rxEdge => rfl
  | rxSample l => exact bitOperand_bitByte .rxSample l rest
  | rxFinalize => rfl
  | decode acc => exact halfOperand_halfBytes hwf rest
  | enterRx => rfl
  | read => rfl
  | qPut v => exact halfOperand_halfBytes hwf rest
  | qGetWait => rfl
  | qGetNowait => rfl
  | boot => rfl
  | atrTx => rfl
  | atrDrain => rfl
  | modeSwitch => rfl
  | idle => rfl
  | header => rfl
  | dispatch => rfl
  | bodyTx => rfl
  | cwEcho => rfl
  | cwRx => rfl
  | trailerTx => rfl
  | clear => rfl
  | reset => rfl

/-! ### What decodes -/

/-- `i` can be written down, and `bytes` are its encoding and then `rest`. -/
def IsEncoding (c : Config) (i : Instr) (rest bytes : List Byte) : Prop :=
  i.wf c = true ∧ encode c i ++ rest = bytes

section
variable {c : Config} {i : Instr} {op : Byte} {bytes rest : List Byte}

theorem isEncoding_of_noOperand {j : Instr} (hj : j.wf c = true ∧ encode c j = [op])
    (h : (.ok (j, bytes) : Decoded) = .ok (i, rest)) : IsEncoding c i rest (op :: bytes) := by
  cases h
  exact ⟨hj.1, by rw [hj.2]; rfl⟩

theorem isEncoding_of_bitOperand {f : Bool → Instr}
    (hf : ∀ b, (f b).wf c = true ∧ encode c (f b) = [op, bitByte b])
    (h : bitOperand f bytes = .ok (i, rest)) : IsEncoding c i rest (op :: bytes) := by
  unfold bitOperand at h
  split at h
  · split at h
    next hb =>
      cases h
      exact ⟨(hf false).1, by rw [(hf false).2, hb]; rfl⟩
    next =>
      split at h
      next hb =>
        cases h
        exact ⟨(hf true).1, by rw [(hf true).2, hb]; rfl⟩
      next => cases h
  · cases h

theorem isEncoding_of_byteOperand {f : Byte → Instr}
    (hf : ∀ b, (f b).wf c = true ∧ encode c (f b) = [op, b])
    (h : byteOperand f bytes = .ok (i, rest)) : IsEncoding c i rest (op :: bytes) := by
  unfold byteOperand at h
  split at h
  · cases h
    exact ⟨(hf _).1, by rw [(hf _).2]; rfl⟩
  · cases h

theorem isEncoding_of_halfOperand {f : Half → Instr} (hf : ∀ v, encode c (f v) = op :: halfBytes v)
    (h : halfOperand c f bytes = .ok (i, rest)) : IsEncoding c i rest (op :: bytes) := by
  unfold halfOperand at h
  split at h
  · split at h
    · cases h
      exact ⟨‹_›, by rw [hf, halfBytes_halfOf]; rfl⟩
    · cases h
  · cases h

theorem isEncoding_of_wordOperand {f : BitVec 32 → Instr}
    (hf : ∀ v, (f v).wf c = true ∧ encode c (f v) = op :: wordBytes v)
    (h : wordOperand f bytes = .ok (i, rest)) : IsEncoding c i rest (op :: bytes) := by
  unfold wordOperand at h
  split at h
  · cases h
    exact ⟨(hf _).1, by rw [(hf _).2, wordBytes_wordOf]; rfl⟩
  · cases h

end

/-- The action of an instruction byte is well formed and is written with that byte: the six tests that come
before UNKNOWN are those of `Config.named`. -/
theorem commandOf_isEncoding (c : Config) (ins p1 p2 len : Byte) (rest : List Byte) :
    IsEncoding c (commandOf c ins p1 p2 len) rest (cla :: ins :: p1 :: p2 :: len :: rest) := by
  unfold commandOf
  split
  · subst ins; exact ⟨rfl, rfl⟩
  split
  · subst ins; exact ⟨rfl, rfl⟩
  split
  · subst ins; exact ⟨rfl, rfl⟩
  split
  · subst ins; exact ⟨rfl, rfl⟩
  split
  · subst ins; exact ⟨rfl, rfl⟩
  split
  · subst ins; exact ⟨rfl, rfl⟩
  refine ⟨?_, rfl⟩
  simp [Instr.wf, Config.named, Config.namedIns, *]

theorem isEncoding_of_decodeHeader {c : Config} {i : Instr} {bytes rest : List Byte}
    (h : decodeHeader c bytes = .ok (i, rest)) : IsEncoding c i rest (cla :: bytes) := by
  unfold decodeHeader at h
  split at h
  · cases h
    exact commandOf_isEncoding ..
  · cases h

theorem isEncoding_of_decodeOperation {c : Config} {i : Instr} {op : Byte} {bytes rest : List Byte}
    (h : decodeOperation c op bytes = .ok (i, rest)) : IsEncoding c i rest (op :: bytes) := by
  obtain ⟨n, hn⟩ : ∃ n, op.toNat = n := ⟨_, rfl⟩
  have hop : op = BitVec.ofNat 8 n := by rw [← hn, BitVec.ofNat_toNat, BitVec.setWidth_eq]
  unfold decodeOperation at h
  rw [hn] at h
  subst hop
  clear hn
  split at h
  · exact isEncoding_of_bitOperand (fun b => by cases b <;> exact ⟨rfl, rfl⟩) h
  · exact isEncoding_of_bitOperand (fun _ => ⟨rfl, rfl⟩) h
  · exact isEncoding_of_wordOperand (fun _ => ⟨rfl, rfl⟩) h
  · exact isEncoding_of_halfOperand (fun _ => rfl) h
  · exact isEncoding_of_halfOperand (fun _ => rfl) h
  · exact isEncoding_of_noOperand ⟨rfl, rfl⟩ h
  · exact isEncoding_of_byteOperand (fun _ => ⟨rfl, rfl⟩) h
  · exact isEncoding_of_noOperand ⟨rfl, rfl⟩ h
  · exact isEncoding_of_noOperand ⟨rfl, rfl⟩ h
  · exact isEncoding_of_bitOperand (fun _ => ⟨rfl, rfl⟩) h
  · exact isEncoding_of_noOperand ⟨rfl, rfl⟩ h
  · exact isEncoding_of_halfOperand (fun _ => rfl) h
  · exact isEncoding_of_noOperand ⟨rfl, rfl⟩ h
  · exact isEncoding_of_noOperand ⟨rfl, rfl⟩ h
  · exact isEncoding_of_halfOperand (fun _ => rfl) h
  case h_31 => cases h
  all_goals exact isEncoding_of_noOperand ⟨rfl, rfl⟩ h

/-- Settles O3: the header and each kind of operand are inverted on their own, and the first byte tells which
of them was read. -/
theorem decodedBytesAreTheEncoding : Obligations.DecodedBytesAreTheEncoding := by
  intro c bytes i rest h
  cases bytes with
  | nil => cases h
  | cons b bytes =>
    rw [decode] at h
    split at h
    next hcla => rw [hcla]; exact isEncoding_of_decodeHeader h
    next => exact isEncoding_of_decodeOperation h

end Sys2Proof
end

section
/-! PROOFS. Every instruction, and with it every step, keeps the engine's invariant (10_state.md section 12). -/

namespace Sys2Proof.Machine

/-- An operation with a guard goes on to one of its two next states. -/
theorem next_of_guarded {P : State → Prop} {c : Prop} [Decidable c] {a b t : State}
    (h : (if c then .next a else .next b : StepOutcome) = .next t) (ha : c → P a) (hb : ¬ c → P b) : P t := by
  split at h
  next hc => cases h; exact ha hc
  next hc => cases h; exact hb hc

section
variable {s : State} (h : EngineInv s)
include h

theorem inv_start : EngineInv s.start := inv_congr h rfl

theorem inv_blocked : EngineInv s.blocked := inv_congr h rfl

theorem inv_qPut (v : Half) : EngineInv (s.qPut v).2 := by
  have hdeliver := inv_deliver h v
  by_cases hfull : s.qcount = s.cfg.qcap
  · rw [State.qPut_of_full hfull]
    exact h
  · rw [State.qPut_of_room hfull, ← State.deliver_of_room hfull]
    exact hdeliver

/-- Every instruction keeps the engine's invariant: the shared operations do, and a handler runs only while
its source is armed. -/
theorem inv_exec {i : Instr} {t : State} (ht : exec i s = .next t) : EngineInv t := by
  have hs := inv_start h
  have hb := inv_blocked h
  cases i with
  | serial p1 p2 len => exact inv_runCommand h ht
  | seed p1 p2 len => exact inv_runCommand h ht
  | auth p1 p2 len => exact inv_runCommand h ht
  | msg p1 p2 len => exact inv_runCommand h ht
  | mbox p1 p2 len => exact inv_runCommand h ht
  | cw p1 p2 len => exact inv_runCommand h ht
  | unknown ins p1 p2 len =>
    rw [exec, execUnknown] at ht
    split at ht
    · cases ht; exact hb
    · exact inv_runCommand h ht
  | configure rate => cases ht; exact inv_configure hs rate
  | clkTick l => cases ht; exact inv_clock hs l
  | delay n =>
    rw [exec, execDelay] at ht
    split at ht
    · cases ht; exact inv_congr h rfl
    · exact next_of_guarded ht (fun _ => inv_congr h rfl) fun _ => hb
  | encode v => cases ht; exact inv_congr h rfl
  | send code => exact inv_afterSend h (fun _ hu => hu) ht
  | enterTx => exact next_of_guarded ht (fun _ => inv_enterTx hs) fun _ => hb
  | sendByte b => exact inv_afterSend h (fun _ hu => hu) ht
  | txTick =>
    refine next_of_guarded ht (fun henabled => ?_) fun _ => hb
    exact inv_tick hs (Bool.and_eq_true _ _ ▸ henabled).2
  | rxEdge =>
    refine next_of_guarded ht (fun henabled => ?_) fun _ => hb
    simp only [State.edgeEnabled, State.edgeArmed, Bool.and_eq_true] at henabled
    exact inv_edge hs henabled.2.1
  | rxSample l =>
    refine next_of_guarded ht (fun henabled => ?_) fun _ => hb
    simp only [State.sampleEnabled, State.sampleArmed, Bool.and_eq_true, decide_eq_true_eq] at henabled
    exact inv_sample hs henabled.2.1 henabled.2.2 l
  | rxFinalize => cases ht; exact inv_finalize hs
  | decode acc => cases ht; exact inv_congr h rfl
  | enterRx =>
    refine next_of_guarded ht (fun _ => hb) fun hbusy => ?_
    exact inv_enterRx hs (Bool.eq_false_iff.mpr hbusy)
  | read =>
    refine inv_afterRead (go := fun v u => u.answer (.value v)) h (fun _ u hu => ?_) ht
    exact inv_congr hu rfl
  | qPut v => cases ht; exact inv_congr (inv_qPut hs v) rfl
  | qGetWait =>
    refine next_of_guarded ht (fun _ => hb) fun hword => ?_
    exact inv_congr (inv_qTake hs (by simpa [State.qEmpty] using hword)) rfl
  | qGetNowait =>
    refine next_of_guarded ht (fun _ => inv_congr h rfl) fun hword => ?_
    exact inv_congr (inv_qTake hs (by simpa [State.qEmpty] using hword)) rfl
  | boot => exact next_of_guarded ht (fun _ => inv_congr (inv_configure hs .handshake) rfl) fun _ => hb
  | atrTx => exact inv_inState h ht (inv_afterSend h fun _ hu => inv_congr hu rfl)
  | atrDrain =>
    rw [exec, execAtrDrain] at ht
    exact inv_inState h ht fun hf => next_of_guarded hf (fun _ => hb) fun _ => inv_congr h rfl
  | modeSwitch =>
    refine next_of_guarded ht (fun _ => ?_) fun _ => hb
    have hmode : EngineInv { s.start with mode := .operating } := inv_congr h rfl
    exact inv_congr (inv_configure hmode .operating) rfl
  | idle =>
    refine inv_inState h ht (inv_afterRead h fun v u hu => ?_)
    split
    · exact inv_congr (inv_cmdbuf hu (Memory.wf_store hu.cmdbufWf 0 _)) rfl
    · exact hu
  | header =>
    exact inv_inState h ht
      (inv_afterRead h fun v u hu => inv_congr (inv_cmdbuf hu (Memory.wf_store hu.cmdbufWf _ _)) rfl)
  | dispatch => exact next_of_guarded ht (fun _ => inv_congr h rfl) fun _ => hb
  | bodyTx =>
    refine inv_inState h ht (inv_afterSend h fun u hu => ?_)
    split <;> exact inv_congr hu rfl
  | cwEcho => exact inv_inState h ht (inv_afterSend h fun _ hu => inv_congr hu rfl)
  | cwRx =>
    refine inv_inState h ht (inv_afterRead h fun v u hu => ?_)
    have hstored := inv_cmdbuf hu (Memory.wf_store hu.cmdbufWf (5 + u.didx.toNat) (lowByte v))
    dsimp only
    split <;> exact inv_congr hstored rfl
  | trailerTx => exact inv_inState h ht (inv_afterSend h fun _ hu => inv_congr hu rfl)
  | clear => exact next_of_guarded ht (fun _ => inv_congr (inv_cmdbuf h Memory.wf_nil) rfl) fun _ => hb
  | reset => cases ht; exact inv_resetRegisters h

end

/-- Taking a turn keeps the engine's invariant. -/
theorem inv_takeTurn {s : State} (h : EngineInv s) : EngineInv s.takeTurn.2 := by
  obtain ⟨agenda, turns, hturn⟩ := s.takeTurn_frame
  rw [hturn]
  exact inv_congr h rfl

/-- Settles O53: a step takes a turn, and then runs an instruction or holds it back. -/
theorem everyStepKeepsTheEngineInvariant : Obligations.EveryStepKeepsTheEngineInvariant := by
  intro s t h ht
  obtain ⟨-, ⟨i, u, hfetch, hexec⟩ | ⟨-, rfl⟩⟩ := step_cases ht
  · rw [State.fetchTurn_state hfetch] at hexec
    exact inv_exec (inv_takeTurn h) hexec
  · exact inv_blocked (inv_takeTurn h)

end Sys2Proof.Machine
end

section
/-! PROOFS. The wire commands: the dispatcher's turn at DISPATCH runs the one whose header CMDBUF holds, and its step is DISPATCH's selection (44_dispatcher.md sections 4 and 5). -/

namespace Sys2Proof.Machine

open State

/-! ### A command's own step -/

theorem runCommand_at_header {s : State} {ins : Byte} (hdispatch : s.dstate = .dispatch)
    (hins : Memory.read s.cmdbuf 1 = ins) : s.runCommand ins = .next (s.start.selectAction ins) :=
  if_pos ⟨hdispatch, hins⟩

theorem runCommand_elsewhere {s : State} {ins : Byte}
    (h : ¬ (s.dstate = .dispatch ∧ Memory.read s.cmdbuf 1 = ins)) : s.runCommand ins = .next s.blocked :=
  if_neg h

theorem exec_unknown {s : State} {ins : Byte} (hunnamed : s.cfg.named ins = false) (p1 p2 len : Byte) :
    exec (.unknown ins p1 p2 len) s = s.runCommand ins :=
  if_neg (Bool.eq_false_iff.mp hunnamed)

/-- A command runs by its instruction byte alone (30_encoding.md R109). -/
theorem exec_command {s : State} {p1 p2 len ins : Byte} {i : Instr}
    (hi : (i, ins) ∈ [(.serial p1 p2 len, 0x70#8), (.seed p1 p2 len, 0x78#8),
      (.auth p1 p2 len, s.cfg.insAuth), (.msg p1 p2 len, s.cfg.insMsg),
      (.mbox p1 p2 len, s.cfg.insMbox), (.cw p1 p2 len, s.cfg.insCw), (.unknown ins p1 p2 len, ins)])
    (hwf : i.wf s.cfg = true) : exec i s = s.runCommand ins := by
  simp only [List.mem_cons, List.not_mem_nil, or_false, Prod.mk.injEq] at hi
  rcases hi with ⟨rfl, rfl⟩ | ⟨rfl, rfl⟩ | ⟨rfl, rfl⟩ | ⟨rfl, rfl⟩ | ⟨rfl, rfl⟩ | ⟨rfl, rfl⟩ | ⟨rfl, -⟩
  · rfl
  · rfl
  · rfl
  · rfl
  · rfl
  · rfl
  · exact exec_unknown ((Bool.not_eq_true' _).mp hwf) p1 p2 len

/-- Settles O44: a command is `runCommand` of its instruction byte, whose test is the statement's. -/
theorem commandsChangeOnlyTheDispatcher : Obligations.CommandsChangeOnlyTheDispatcher := by
  intro s p1 p2 len ins i hi hwf
  rw [exec_command hi hwf]
  exact ⟨fun hdispatch hins => ⟨_, _, runCommand_at_header hdispatch hins⟩,
    fun helsewhere => runCommand_elsewhere helsewhere⟩

/-! ### The command of the header -/

theorem commandInstr_of_cla {s : State} (h : Memory.read s.cmdbuf 0 = cla) :
    s.commandInstr = commandOf s.cfg (Memory.read s.cmdbuf 1) (Memory.read s.cmdbuf 2)
      (Memory.read s.cmdbuf 3) (Memory.read s.cmdbuf 4) := by
  have hdecode : decode s.cfg s.headerBytes = .ok (commandOf s.cfg (Memory.read s.cmdbuf 1)
      (Memory.read s.cmdbuf 2) (Memory.read s.cmdbuf 3) (Memory.read s.cmdbuf 4), []) := by
    rw [headerBytes, List.map_cons, h]
    exact decode_header rfl []
  rw [commandInstr, hdecode]
  exact if_pos h

theorem commandInstr_of_other {s : State} (h : Memory.read s.cmdbuf 0 ≠ cla) :
    s.commandInstr = .dispatch := by
  unfold commandInstr
  split
  · exact if_neg h
  · rfl

theorem exec_commandOf (ins p1 p2 len : Byte) (s : State) :
    exec (commandOf s.cfg ins p1 p2 len) s = s.runCommand ins := by
  unfold commandOf
  split
  · subst ins; rfl
  split
  · subst ins; rfl
  split
  · subst ins; rfl
  split
  · subst ins; rfl
  split
  · subst ins; rfl
  split
  · subst ins; rfl
  exact exec_unknown (by simp [Config.named, Config.namedIns, *]) p1 p2 len

/-- What the dispatcher's turn at DISPATCH runs is DISPATCH's step. -/
theorem exec_commandInstr {s : State} (hdispatch : s.dstate = .dispatch) :
    exec s.commandInstr s = exec .dispatch s := by
  by_cases hcla : Memory.read s.cmdbuf 0 = cla
  · rw [commandInstr_of_cla hcla, exec_commandOf, runCommand_at_header hdispatch rfl,
      exec_dispatch hdispatch]
  · rw [commandInstr_of_other hcla]

/-- With no DELAY in progress the dispatcher's turn is its program's. -/
theorem agentInstr_dispatcher {s : State} (h : s.delayPhase = .start) :
    s.agentInstr .dispatcher = s.programInstr := dispatcherInstr_start h

theorem programInstr_dispatch {s : State} (h : s.dstate = .dispatch) :
    s.programInstr = some s.commandInstr := by
  simp [programInstr, h]

/-- Settles O45: the turn's instruction is `commandInstr`, by `exec_commandInstr`. -/
theorem commandStepIsTheDispatchStep : Obligations.CommandStepIsTheDispatchStep := by
  intro s i hphase hdispatch hi
  rw [agentInstr_dispatcher hphase, programInstr_dispatch hdispatch, Option.some.injEq] at hi
  rw [← hi, exec_commandInstr hdispatch]

/-! ### The response -/

theorem response_of_resp {c : Config} {ins : Byte} {table : List Byte} (hcw : ins ≠ c.insCw)
    (htable : resp c ins = table) : response c ins = table ++ [0x90#8, 0x00#8] := by
  rw [response, if_neg hcw, htable]

theorem response_cw (c : Config) : response c c.insCw = [c.insCw, 0x90#8, 0x00#8] := by
  rw [response, if_pos rfl]
  rfl

/-- After the selection the bytes owed are the response. -/
theorem owed_selectAction {s : State} {ins : Byte} (hins : Memory.read s.cmdbuf 1 = ins) :
    (s.selectAction ins).owed = response s.cfg ins := by
  unfold owed
  rw [selectAction_dstate, selectAction_cmdbuf, selectAction_cfg, selectAction_didx, hins]
  by_cases hcw : ins = s.cfg.insCw
  · rw [if_pos hcw, hcw, response_cw]
  · rw [if_neg hcw, response_of_resp hcw rfl]
    by_cases hempty : resp s.cfg ins = []
    · rw [if_pos hempty, hempty]
      rfl
    · rw [if_neg hempty]
      rfl

section
variable {s : State} {ins : Byte} (hdispatch : s.dstate = .dispatch) (hins : Memory.read s.cmdbuf 1 = ins)
include hdispatch hins

/-- The step of a command that is answered from a table, or by the trailer alone. -/
theorem runCommand_table {table : List Byte} (hcw : ins ≠ s.cfg.insCw) (htable : resp s.cfg ins = table) :
    ∃ t, s.runCommand ins = .next t ∧
      t.raised = (if s.cfg.named ins then none else some (.unknownInstruction ins)) ∧
      t.dstate = (if table = [] then .trailerTx else .bodyTx) ∧ t.owed = table ++ [0x90#8, 0x00#8] := by
  refine ⟨_, runCommand_at_header hdispatch hins, rfl, ?dstate, ?owed⟩
  case dstate => exact selectAction_dstate_of_resp (s := s.start) hcw htable
  case owed => exact (owed_selectAction (s := s.start) hins).trans (response_of_resp hcw htable)

theorem runCommand_named {table : List Byte} (hnamed : ins ∈ s.cfg.namedIns) (hcw : ins ≠ s.cfg.insCw)
    (htable : resp s.cfg ins = table) :
    ∃ t, s.runCommand ins = .next t ∧ t.raised = none ∧
      t.dstate = (if table = [] then .trailerTx else .bodyTx) ∧ t.owed = table ++ [0x90#8, 0x00#8] := by
  obtain ⟨t, ht, hraised, hrest⟩ := runCommand_table hdispatch hins hcw htable
  exact ⟨t, ht, by rw [hraised, if_pos ((s.cfg.named_iff_mem ins).mpr hnamed)], hrest⟩

end

theorem runCommand_cw {s : State} (hdispatch : s.dstate = .dispatch)
    (hins : Memory.read s.cmdbuf 1 = s.cfg.insCw) :
    ∃ t, s.runCommand s.cfg.insCw = .next t ∧ t.raised = none ∧ t.dstate = .cwEcho ∧
      t.owed = [s.cfg.insCw, 0x90#8, 0x00#8] := by
  have hnamed : s.cfg.named s.cfg.insCw = true := (s.cfg.named_iff_mem _).mpr (by simp [Config.namedIns])
  refine ⟨_, runCommand_at_header hdispatch hins, if_pos hnamed, s.start.selectAction_dstate_cw, ?owed⟩
  case owed => exact (owed_selectAction (s := s.start) hins).trans (response_cw s.cfg)

/-- Settles O43: the named bytes are distinct, so each command finds its own table, and only CW the echo. -/
theorem commandsBeginTheirResponse : Obligations.CommandsBeginTheirResponse := by
  intro s p1 p2 len ins hok hdispatch hins
  have htable := @runCommand_named s ins hdispatch hins
  refine ⟨?serial, ?seed, ?auth, ?msg, ?mbox, ?cw, fun hother => ?unknown⟩
  case serial =>
    rintro rfl
    exact htable (.head _) (Config.namedIns_ne hok 0 5) (resp_insSerial s.cfg)
  case seed =>
    rintro rfl
    exact htable (.tail _ (.head _)) (Config.namedIns_ne hok 1 5) (resp_insSeed s.cfg)
  case auth =>
    rintro rfl
    exact htable (by simp [Config.namedIns]) (Config.namedIns_ne hok 2 5) (resp_insAuth hok)
  case msg =>
    rintro rfl
    exact htable (by simp [Config.namedIns]) (Config.namedIns_ne hok 3 5) (resp_insMsg hok)
  case mbox =>
    rintro rfl
    exact htable (by simp [Config.namedIns]) (Config.namedIns_ne hok 4 5) (resp_insMbox hok)
  case cw =>
    rintro rfl
    exact runCommand_cw hdispatch hins
  case unknown =>
    have hunnamed : s.cfg.named ins = false :=
      Bool.eq_false_iff.mpr fun h => hother ((s.cfg.named_iff_mem ins).mp h)
    simp only [List.mem_cons, not_or] at hother
    obtain ⟨hserial, hseed, -, hmsg, hmbox, hcw, -⟩ := hother
    obtain ⟨t, ht, hraised, hdstate, howed⟩ :=
      runCommand_table hdispatch hins hcw (resp_eq_nil hserial hseed hmsg hmbox)
    exact ⟨t, (exec_unknown hunnamed ..).trans ht, by rw [hraised, hunnamed]; rfl, hdstate, howed⟩

end Sys2Proof.Machine
end

section
/-! PROOFS. Whose turn it is and what it runs; the builds that are refused and the states that are stuck (00_scope.md R6, R9, 93_implementation_defined.md U9). -/

namespace Sys2Proof.Machine

open State

/-! ### The next turn -/

theorem takeTurn_cons {s : State} {t : Turn} {ts : List Turn} (h : s.agenda = t :: ts) :
    s.takeTurn = (t, { s with agenda := ts }) := by
  rw [takeTurn, h]

theorem takeTurn_nil {s : State} (h : s.agenda = []) :
    s.takeTurn = (.agent (Config.freeTurn s.turns), { s with turns := s.turns + 1 }) := by
  rw [takeTurn, h]

theorem fetchTurn_agent {s : State} {a : Agent} {i : Instr} (h : s.agentInstr a = some i) :
    fetchTurn (.agent a) s = .instr i s := by
  simp [fetchTurn, h]

theorem fetchTurn_agent_stuck {s : State} {a : Agent} (h : s.agentInstr a = none) :
    fetchTurn (.agent a) s = .stuck := by
  simp [fetchTurn, h]

theorem fetchTurn_call {s : State} {bytes rest : List Byte} {i : Instr}
    (h : decode s.cfg bytes = .ok (i, rest)) :
    fetchTurn (.call bytes) s = if s.held i then .held s else .instr i s := by
  simp [fetchTurn, h]

/-- What an agent runs does not depend on the turns to come. -/
theorem agentInstr_turns (s : State) (a : Agent) (ts : List Turn) (n : Nat) :
    agentInstr { s with agenda := ts, turns := n } a = s.agentInstr a := rfl

/-- Settles O4: the turn is the head of the agenda, or the free turn, and `step` runs what it fetches. -/
theorem stepRunsTheDecodedInstruction : Obligations.StepRunsTheDecodedInstruction := by
  intro s hok
  refine ⟨fun bytes ts i rest hagenda hdecode => ?called, fun a ts i hagenda hi => ?agent,
    fun i hagenda hi => ?free⟩
  case called =>
    have hfetch : s.fetch = if s.held i then .held { s with agenda := ts } else
        .instr i { s with agenda := ts } := by
      rw [fetch, takeTurn_cons hagenda]
      exact fetchTurn_call (s := { s with agenda := ts }) hdecode
    refine ⟨fun hfree => step_of_fetch hok ?_, fun hheld => ?_⟩
    · rw [hfetch, hfree]
      rfl
    · rw [step, if_pos hok, hfetch, if_pos hheld]
      rfl
  case agent =>
    refine step_of_fetch hok ?_
    rw [fetch, takeTurn_cons hagenda]
    exact fetchTurn_agent (s := { s with agenda := ts }) hi
  case free =>
    refine step_of_fetch hok ?_
    rw [fetch, takeTurn_nil hagenda]
    exact fetchTurn_agent (s := { s with turns := s.turns + 1 }) hi

/-! ### The agents' instructions -/

/-- Settles O5: outside DISPATCH the program's instruction is numbered by DSTATE; at DISPATCH it is the
action of the header's instruction byte, by `commandOf_isEncoding`. -/
theorem agentsRunTheirOperations : Obligations.AgentsRunTheirOperations := by
  intro s
  refine ⟨fun _ => rfl, rfl, fun n hphase => dispatcherInstr_wait hphase,
    fun hphase hother hnamed => ?numbered, fun hphase hdispatch hcla => ?command⟩
  case numbered =>
    rw [agentInstr_dispatcher hphase, programInstr]
    cases hd : s.dstate with
    | dispatch => exact absurd hd hother
    | reserved k => exact absurd hd (hnamed k)
    | boot => exact ⟨_, rfl, rfl⟩
    | atrTx => exact ⟨_, rfl, rfl⟩
    | atrDrain => exact ⟨_, rfl, rfl⟩
    | modeSwitch => exact ⟨_, rfl, rfl⟩
    | idle => exact ⟨_, rfl, rfl⟩
    | header => exact ⟨_, rfl, rfl⟩
    | bodyTx => exact ⟨_, rfl, rfl⟩
    | cwEcho => exact ⟨_, rfl, rfl⟩
    | cwRx => exact ⟨_, rfl, rfl⟩
    | trailerTx => exact ⟨_, rfl, rfl⟩
    | clear => exact ⟨_, rfl, rfl⟩
  case command =>
    obtain ⟨hwf, hbytes⟩ := commandOf_isEncoding s.cfg (Memory.read s.cmdbuf 1) (Memory.read s.cmdbuf 2)
      (Memory.read s.cmdbuf 3) (Memory.read s.cmdbuf 4) []
    rw [List.append_nil] at hbytes
    rw [agentInstr_dispatcher hphase, programInstr_dispatch hdispatch, commandInstr_of_cla hcla, hcla]
    exact ⟨_, rfl, hwf, hbytes⟩

/-! ### Refused builds and stuck states -/

theorem step_of_badConfiguration {s : State} (h : s.cfg.ok ≠ true) :
    step s = .refused .badConfiguration := if_neg h

/-- Settles O6: a build that is not refused meets each of the constraints; the example of an unknown
instruction is one more distinct byte, as it has no name. -/
theorem badConfigurationIsRefused : Obligations.BadConfigurationIsRefused := by
  intro s hbad
  refine step_of_badConfiguration fun hok => ?_
  obtain ⟨hmin, hmax, hmult, hdivides, hop, hths, htop, hqcap, hatr, -, -, -, hnodup, hexample⟩ :=
    of_decide_eq_true hok
  have hunnamed : insExampleUnknown ∉ s.cfg.namedIns := fun hmem => by
    simp [(s.cfg.named_iff_mem _).mpr hmem] at hexample
  have hall : ([insSerial, insSeed] ++ insExampleUnknown ::
      [s.cfg.insAuth, s.cfg.insMsg, s.cfg.insMbox, s.cfg.insCw]).Nodup :=
    List.nodup_middle.mpr (List.nodup_cons.mpr ⟨hunnamed, hnodup⟩)
  rcases hbad with h | h | h | h | h | h | h | h | h
  · exact h ⟨hmin, hmax⟩
  · omega
  · exact h hdivides
  · omega
  · omega
  · omega
  · omega
  · exact h hatr
  · exact h hall

theorem programInstr_reserved {s : State} {k : Fin 4} (h : s.dstate = .reserved k) :
    s.programInstr = none := by
  simp [programInstr, h]

theorem afterRead_of_reserved {s : State} (h : s.rdphase = .reserved) (go : Half → State → State) :
    s.afterRead go = .fault .stuck := by
  rw [afterRead, readStep_reserved (s := s.start) h]

/-- Settles O52: the dispatcher's program has no instruction in a reserved DSTATE, and READ no micro-step in
the reserved RDPHASE. -/
theorem reservedStatesAreStuck : Obligations.ReservedStatesAreStuck := by
  intro s
  refine ⟨fun k ts hok hphase hreserved hagenda => ?dstate, fun hreserved =>
    ⟨?read, fun hidle => ?idle, fun hheader => ?header, fun hcwRx => ?cwRx⟩⟩
  case dstate =>
    have hnone : agentInstr { s with agenda := ts } .dispatcher = none :=
      (agentInstr_dispatcher (s := s) hphase).trans (programInstr_reserved hreserved)
    rw [step, if_pos hok, fetch, takeTurn_cons hagenda, fetchTurn_agent_stuck hnone]
  case read => rw [exec_read, afterRead_of_reserved hreserved]
  case idle => rw [exec_idle hidle, afterRead_of_reserved hreserved]
  case header => rw [exec_header hheader, afterRead_of_reserved hreserved]
  case cwRx => rw [exec_cwRx hcwRx, afterRead_of_reserved hreserved]

end Sys2Proof.Machine
end

section
/-! PROOFS. Everything a turn of the dispatcher can do, said once; its transitions, and the bytes of the header it leaves alone (44_dispatcher.md R220, 20_memory.md R83). -/

namespace Sys2Proof.Machine

open State

/-! ### What a turn can do -/

/-- In the DSTATE of `s` the dispatcher sends byte `b`, and goes on with this DSTATE and this DIDX. -/
inductive Sends (s : State) : Byte → DState → Half → Prop
  | atr (hd : s.dstate = .atrTx) (hmore : s.didx + 1 ≠ 16) :
      Sends s (tableByte s.cfg.atr s.didx.toNat) .atrTx (s.didx + 1)
  | atrLast (hd : s.dstate = .atrTx) (hlast : s.didx + 1 = 16) :
      Sends s (tableByte s.cfg.atr s.didx.toNat) .atrDrain (s.didx + 1)
  | body (hd : s.dstate = .bodyTx)
      (hmore : (s.didx + 1).toNat ≠ (resp s.cfg (Memory.read s.cmdbuf 1)).length) :
      Sends s (tableByte (resp s.cfg (Memory.read s.cmdbuf 1)) s.didx.toNat) .bodyTx (s.didx + 1)
  | bodyLast (hd : s.dstate = .bodyTx)
      (hlast : (s.didx + 1).toNat = (resp s.cfg (Memory.read s.cmdbuf 1)).length) :
      Sends s (tableByte (resp s.cfg (Memory.read s.cmdbuf 1)) s.didx.toNat) .trailerTx 0
  | echo (hd : s.dstate = .cwEcho) : Sends s (Memory.read s.cmdbuf 1) .cwRx 0
  | trailer (hd : s.dstate = .trailerTx) (hmore : s.didx + 1 ≠ 2) :
      Sends s (tableByte trailer s.didx.toNat) .trailerTx (s.didx + 1)
  | trailerLast (hd : s.dstate = .trailerTx) (hlast : s.didx + 1 = 2) :
      Sends s (tableByte trailer s.didx.toNat) .clear (s.didx + 1)

/-- In the DSTATE of `s` the dispatcher takes in byte `b`, and goes on with this CMDBUF, DSTATE and DIDX. -/
inductive Takes (s : State) (b : Byte) : Memory → DState → Half → Prop
  | discarded (hd : s.dstate = .idle) : Takes s b s.cmdbuf .idle s.didx
  | classByte (hd : s.dstate = .idle) (hb : b = cla) : Takes s b (Memory.store s.cmdbuf 0 b) .header 1
  | header (hd : s.dstate = .header) (hmore : s.didx + 1 ≠ 5) :
      Takes s b (Memory.store s.cmdbuf s.didx.toNat b) .header (s.didx + 1)
  | headerLast (hd : s.dstate = .header) (hlast : s.didx + 1 = 5) :
      Takes s b (Memory.store s.cmdbuf s.didx.toNat b) .dispatch (s.didx + 1)
  | payload (hd : s.dstate = .cwRx) (hmore : (s.didx + 1).toNat ≠ 32) :
      Takes s b (Memory.store s.cmdbuf (5 + s.didx.toNat) b) .cwRx (s.didx + 1)
  | payloadLast (hd : s.dstate = .cwRx) (hlast : (s.didx + 1).toNat = 32) :
      Takes s b (Memory.store s.cmdbuf (5 + s.didx.toNat) b) .trailerTx 0

/-- A micro-step of READ that takes no word. -/
inductive Listens (s : State) : State → Prop
  | armed (hphase : s.rdphase = .start) (harmed : s.rxArmed = true) :
      Listens s { s.start with rdphase := .wait }
  | turning (hphase : s.rdphase = .start) (hdeaf : s.rxArmed = false) (hdrained : s.txArmed = false) :
      Listens s { s.start with delaycnt := turnOf s.cfg s.mode, rdphase := .delay }
  | turned (hphase : s.rdphase = .delay) (hover : s.delaycnt = 0) (hdrained : s.txArmed = false) :
      Listens s { s.start.enterRx with rdphase := .wait }

/-- The next states of a dispatcher's turn. -/
inductive DispatcherStep (s : State) : State → Prop
  | blocked : DispatcherStep s s.blocked
  | delayOver : DispatcherStep s { s.start with delayPhase := .start }
  | boot (hd : s.dstate = .boot) :
      DispatcherStep s { s.start.configure .handshake with didx := 0, dstate := .atrTx }
  | drained (hd : s.dstate = .atrDrain) (hdrained : s.txArmed = false) :
      DispatcherStep s { s.start with dstate := .modeSwitch }
  | modeSwitch (hd : s.dstate = .modeSwitch) :
      DispatcherStep s
        { State.configure .operating { s.start with mode := .operating } with dstate := .idle }
  | selected (hd : s.dstate = .dispatch) :
      DispatcherStep s (s.start.selectAction (Memory.read s.cmdbuf 1))
  | cleared (hd : s.dstate = .clear) :
      DispatcherStep s { s.start with cmdbuf := [], didx := 0, dstate := .idle }
  | sent {b : Byte} {d : DState} {x : Half} (hsends : Sends s b d x) (hdrained : s.txArmed = false) :
      DispatcherStep s { s.start.loadFrame (s.byteCode b) with dstate := d, didx := x }
  | listened {t : State} (hreading : s.reading = true) (hlistens : Listens s t) : DispatcherStep s t
  | taken {b : Byte} {m : Memory} {d : DState} {x : Half} (hphase : s.rdphase = .wait)
      (hword : s.qcount ≠ 0) (htakes : Takes s b m d x) :
      DispatcherStep s { s.start.qTake with rdphase := .start, cmdbuf := m, dstate := d, didx := x }

section
variable {s t : State}

theorem dispatcherStep_of_afterSend {b : Byte} {d : DState} {x : Half} {go : State → State}
    (hsends : Sends s b d x)
    (hgo : ∀ u : State, u.dstate = s.dstate → u.didx = s.didx → go u = { u with dstate := d, didx := x })
    (ht : s.afterSend (s.byteCode b) go = .next t) : DispatcherStep s t := by
  rcases afterSend_cases ht with ⟨-, rfl⟩ | ⟨hdrained, rfl⟩
  · exact .blocked
  · rw [hgo _ (loadFrame_dstate _ s.start) (loadFrame_didx _ s.start)]
    exact .sent hsends hdrained

theorem dispatcherStep_of_afterRead {go : Half → State → State} (hreading : s.reading = true)
    (hgo : ∀ v u, u.cmdbuf = s.cmdbuf → u.dstate = s.dstate → u.didx = s.didx →
      ∃ m d x, Takes s (lowByte v) m d x ∧ go v u = { u with cmdbuf := m, dstate := d, didx := x })
    (ht : s.afterRead go = .next t) : DispatcherStep s t := by
  rcases afterRead_cases ht with rfl | ⟨hphase, harmed, rfl⟩ | ⟨hphase, hdeaf, hdrained, rfl⟩ |
    ⟨hphase, hover, hdrained, rfl⟩ | ⟨hphase, hword, rfl⟩
  · exact .blocked
  · exact .listened hreading (.armed hphase harmed)
  · exact .listened hreading (.turning hphase hdeaf hdrained)
  · exact .listened hreading (.turned hphase hover hdrained)
  · obtain ⟨m, d, x, htakes, hnext⟩ :=
      hgo (maskData s.cfg s.qHead) { s.start.qTake with rdphase := .start } rfl rfl rfl
    rw [hnext]
    exact .taken hphase hword htakes

theorem dispatcherStep_atrTx (hd : s.dstate = .atrTx) (ht : exec .atrTx s = .next t) :
    DispatcherStep s t := by
  rw [exec_atrTx hd] at ht
  by_cases hlast : s.didx + 1 = 16
  · exact dispatcherStep_of_afterSend (.atrLast hd hlast) (fun u _ hx => by rw [hx, if_pos hlast]) ht
  · exact dispatcherStep_of_afterSend (.atr hd hlast)
      (fun u hu hx => by rw [hx, if_neg hlast, hu, hd]) ht

theorem dispatcherStep_bodyTx (hd : s.dstate = .bodyTx) (ht : exec .bodyTx s = .next t) :
    DispatcherStep s t := by
  rw [exec_bodyTx hd] at ht
  by_cases hlast : (s.didx + 1).toNat = (resp s.cfg (Memory.read s.cmdbuf 1)).length
  · exact dispatcherStep_of_afterSend (.bodyLast hd hlast) (fun u _ hx => by rw [hx, if_pos hlast]) ht
  · exact dispatcherStep_of_afterSend (.body hd hlast)
      (fun u hu hx => by rw [hx, if_neg hlast, ← hd, ← hu]) ht

theorem dispatcherStep_trailerTx (hd : s.dstate = .trailerTx) (ht : exec .trailerTx s = .next t) :
    DispatcherStep s t := by
  rw [exec_trailerTx hd] at ht
  by_cases hlast : s.didx + 1 = 2
  · exact dispatcherStep_of_afterSend (.trailerLast hd hlast) (fun u _ hx => by rw [hx, if_pos hlast]) ht
  · exact dispatcherStep_of_afterSend (.trailer hd hlast)
      (fun u hu hx => by rw [hx, if_neg hlast, hu, hd]) ht

theorem dispatcherStep_idle (hd : s.dstate = .idle) (ht : exec .idle s = .next t) :
    DispatcherStep s t := by
  rw [exec_idle hd] at ht
  refine dispatcherStep_of_afterRead (by simp [reading, hd]) (fun v u hm hu hx => ?_) ht
  by_cases hcla : lowByte v = cla
  · exact ⟨_, _, _, .classByte hd hcla, by rw [if_pos hcla, hm]⟩
  · exact ⟨_, _, _, .discarded hd, by rw [if_neg hcla, ← hm, ← hd, ← hu, ← hx]⟩

theorem dispatcherStep_header (hd : s.dstate = .header) (ht : exec .header s = .next t) :
    DispatcherStep s t := by
  rw [exec_header hd] at ht
  refine dispatcherStep_of_afterRead (by simp [reading, hd]) (fun v u hm hu hx => ?_) ht
  by_cases hlast : s.didx + 1 = 5
  · exact ⟨_, _, _, .headerLast hd hlast, by rw [hm, hx, if_pos hlast]⟩
  · exact ⟨_, _, _, .header hd hlast, by rw [hm, hx, if_neg hlast, hu, hd]⟩

theorem dispatcherStep_cwRx (hd : s.dstate = .cwRx) (ht : exec .cwRx s = .next t) :
    DispatcherStep s t := by
  rw [exec_cwRx hd] at ht
  refine dispatcherStep_of_afterRead (by simp [reading, hd]) (fun v u hm hu hx => ?_) ht
  by_cases hlast : (s.didx + 1).toNat = 32
  · exact ⟨_, _, _, .payloadLast hd hlast, by
      rw [hm, hx]
      exact if_pos hlast⟩
  · exact ⟨_, _, _, .payload hd hlast, by
      rw [hm, hx, ← hd, ← hu]
      exact if_neg hlast⟩

/-- Every next state of a dispatcher's turn is one of those listed: its second micro-step of a DELAY, or its
program's, by DSTATE. -/
theorem dispatcherStep_of_exec {i : Instr} (hi : s.agentInstr .dispatcher = some i)
    (ht : exec i s = .next t) : DispatcherStep s t := by
  cases hphase : s.delayPhase with
  | wait n =>
    cases (dispatcherInstr_wait hphase).symm.trans hi
    rw [exec, execDelay, hphase] at ht
    exact next_of_guarded ht (fun _ => .delayOver) fun _ => .blocked
  | start =>
    rw [agentInstr_dispatcher hphase] at hi
    cases hd : s.dstate <;> simp only [programInstr, hd, reduceCtorEq, Option.some.injEq] at hi <;> subst hi
    case boot => rw [exec_boot hd] at ht; cases ht; exact .boot hd
    case atrTx => exact dispatcherStep_atrTx hd ht
    case atrDrain =>
      rw [exec_atrDrain hd] at ht
      exact next_of_guarded ht (fun _ => .blocked) fun h => .drained hd (Bool.eq_false_iff.mpr h)
    case modeSwitch => rw [exec_modeSwitch hd] at ht; cases ht; exact .modeSwitch hd
    case idle => exact dispatcherStep_idle hd ht
    case header => exact dispatcherStep_header hd ht
    case dispatch =>
      rw [exec_commandInstr hd, exec_dispatch hd] at ht
      cases ht
      exact .selected hd
    case bodyTx => exact dispatcherStep_bodyTx hd ht
    case cwEcho =>
      rw [exec_cwEcho hd] at ht
      exact dispatcherStep_of_afterSend (.echo hd) (fun _ _ _ => rfl) ht
    case cwRx => exact dispatcherStep_cwRx hd ht
    case trailerTx => exact dispatcherStep_trailerTx hd ht
    case clear => rw [exec_clear hd] at ht; cases ht; exact .cleared hd

end

end Sys2Proof.Machine
end

section
/-! PROOFS. One CLK cycle: its bookkeeping, and each of its events (40_timing_baud.md R134). -/

namespace Sys2Proof.Machine

theorem exec_clkTick (l : Level) (s : State) : exec (.clkTick l) s = .next (s.start.clockCycle l) := rfl

/-- Settles O8: `clockCycle_frame` names everything a CLK cycle may write, with the bookkeeping's values. -/
theorem clkTickBookkeeping : Obligations.ClkTickBookkeeping := by
  intro l s
  obtain ⟨_, _, _, _, _, _, _, _, _, _, _, _, _, _, _, hframe⟩ := s.start.clockCycle_frame l
  rw [exec_clkTick, hframe]
  exact ⟨_, rfl, rfl, rfl, rfl, rfl, rfl, rfl, rfl, rfl, rfl, rfl, rfl, rfl, rfl, rfl, rfl, rfl, rfl, rfl,
    rfl⟩

namespace State

variable {s : State} {l : Level}

/-! ### The events' conditions -/

theorem sampleMatch_eq_true (harmed : s.rxArmed = true) (hsampling : s.rxstate = .sample)
    (hinstant : s.tcnt = s.rxcmp) : s.sampleMatch = true := by
  simp [sampleMatch, sampleArmed, harmed, hsampling, hinstant]

theorem sampleMatch_eq_false (h : ¬ (s.rxArmed = true ∧ s.rxstate = .sample ∧ s.tcnt = s.rxcmp)) :
    s.sampleMatch = false := by
  simpa [sampleMatch, sampleArmed] using h

theorem sampleArmed_of_waiting (h : s.rxstate = .waitEdge) : s.sampleArmed = false := by
  simp [sampleArmed, h]

theorem edgeArmed_of_sampling (h : s.rxstate = .sample) : s.edgeArmed = false := by
  simp [edgeArmed, h]

theorem edgeSeen_eq_true (harmed : s.rxArmed = true) (hwait : s.rxstate = .waitEdge)
    (hhigh : s.ioPrev = true) : s.edgeSeen false = true := by
  simp [edgeSeen, edgeArmed, harmed, hwait, hhigh]

theorem edgeSeen_eq_false
    (h : ¬ (s.rxArmed = true ∧ s.rxstate = .waitEdge ∧ s.ioPrev = true ∧ l = false)) :
    s.edgeSeen l = false := by
  cases l
  · simpa [edgeSeen, edgeArmed] using h
  · simp [edgeSeen]

theorem transmitMatch_eq_true (harmed : s.txArmed = true) (hend : s.tcnt = s.period - 1) :
    s.transmitMatch = true := by
  simp [transmitMatch, periodEnd, harmed, hend]

theorem transmitMatch_eq_false (h : ¬ (s.txArmed = true ∧ s.tcnt = s.period - 1)) :
    s.transmitMatch = false := by
  simpa [transmitMatch, periodEnd] using h

/-! ### The cycle, event by event -/

theorem clockCycle_quiet (htxf : s.txf = false) (hicf : s.icf = false) (hrxf : s.rxf = false)
    (hsample : s.sampleMatch = false) (hedge : s.edgeSeen l = false) (htick : s.transmitMatch = false) :
    s.clockCycle l = s.advance l := by
  rw [clockCycle, sampleCompare_quiet hsample hrxf, edgeCapture_quiet hedge hicf,
    transmitCompare_quiet htick htxf]

/-- A disarmed receive engine leaves the cycle to the transmit compare (42_receive.md R170). -/
theorem clockCycle_deaf (h : s.rxArmed = false) : s.clockCycle l = s.transmitCompare.advance l := by
  rw [clockCycle, sampleCompare_unarmed (by simp [sampleArmed, h]),
    edgeCapture_unarmed (by simp [edgeArmed, h])]

/-- A captured edge with the transmit engine drained is all that the events' second half does. -/
theorem edgeCapture_transmitCompare (hgie : s.gie = true) (harmed : s.rxArmed = true)
    (hwait : s.rxstate = .waitEdge) (hhigh : s.ioPrev = true) (hdrained : s.txArmed = false) :
    (s.edgeCapture false).transmitCompare = ({ s with icf := false, capt := s.tcnt } : State).edge := by
  rw [edgeCapture_runs (edgeSeen_eq_true harmed hwait hhigh) hgie]
  exact transmitCompare_unarmed hdrained

theorem clockCycle_edge (hgie : s.gie = true) (harmed : s.rxArmed = true) (hwait : s.rxstate = .waitEdge)
    (hhigh : s.ioPrev = true) (hdrained : s.txArmed = false) :
    s.clockCycle false = ({ s with icf := false, capt := s.tcnt } : State).edge.advance false := by
  rw [clockCycle, sampleCompare_unarmed (sampleArmed_of_waiting hwait),
    edgeCapture_transmitCompare hgie harmed hwait hhigh hdrained]

/-- RX_SAMPLE does not read RXF. -/
theorem sample_rxf (s : State) (l : Level) (b : Bool) :
    State.sample l { s with rxf := b } = { s.sample l with rxf := b } := by
  by_cases hlast : (s.rxcnt + 1).toNat = s.cfg.nFrame
  · have hshift : State.shiftIn l { s with rxf := b } = { s.shiftIn l with rxf := b } := rfl
    rw [sample_of_last hlast, sample_of_last (s := { s with rxf := b }) hlast, hshift]
    generalize s.shiftIn l = u
    cases hvalid : accValid u.acc
    · rw [finalize_of_invalid hvalid, finalize_of_invalid (s := { u with rxf := b }) hvalid]
      rfl
    · rw [finalize_of_valid hvalid, finalize_of_valid (s := { u with rxf := b }) hvalid]
      by_cases hfull : u.qcount = u.cfg.qcap
      · rw [deliver_of_full hfull, deliver_of_full (s := { u with rxf := b }) hfull]
        rfl
      · rw [deliver_of_room hfull, deliver_of_room (s := { u with rxf := b }) hfull]
        rfl
  · rw [sample_of_more hlast, sample_of_more (s := { s with rxf := b }) hlast]
    rfl

theorem sample_ioPrev (s : State) (l : Level) : (s.sample l).ioPrev = s.ioPrev := by
  obtain ⟨_, _, _, _, _, _, _, h⟩ := s.sample_frame l
  rw [h]

theorem sample_icf (s : State) (l : Level) : (s.sample l).icf = s.icf := by
  obtain ⟨_, _, _, _, _, _, _, h⟩ := s.sample_frame l
  rw [h]

theorem sample_txArmed (s : State) (l : Level) : (s.sample l).txArmed = s.txArmed := by
  obtain ⟨_, _, _, _, _, _, _, h⟩ := s.sample_frame l
  rw [h]

/-- The CLK cycle of a sample that no edge follows. -/
theorem clockCycle_sample (hgie : s.gie = true) (harmed : s.rxArmed = true)
    (hsampling : s.rxstate = .sample) (hinstant : s.tcnt = s.rxcmp) (hdrained : s.txArmed = false)
    (hedge : (s.rxcnt + 1).toNat ≠ s.cfg.nFrame ∨ s.icf = false ∧ (s.ioPrev = false ∨ l = true)) :
    s.clockCycle l = ({ s.sample l with rxf := false } : State).advance l := by
  have hnoEdge : ({ s.sample l with rxf := false } : State).edgeCapture l =
      { s.sample l with rxf := false } := by
    rcases hedge with hmore | ⟨hicf, hline⟩
    · refine edgeCapture_unarmed (edgeArmed_of_sampling ?_) l
      rw [sample_of_more hmore]
      exact hsampling
    · refine edgeCapture_quiet (edgeSeen_eq_false ?_) ((s.sample_icf l).trans hicf)
      rintro ⟨-, -, hhigh, rfl⟩
      have hhigh : s.ioPrev = true := (s.sample_ioPrev false).symm.trans hhigh
      simp [hhigh] at hline
  rw [clockCycle, sampleCompare_runs (sampleMatch_eq_true harmed hsampling hinstant) hgie, sample_rxf,
    hnoEdge, transmitCompare_unarmed (s := { s.sample l with rxf := false })
      ((s.sample_txArmed l).trans hdrained)]

end State

open State

/-- RXCNT counts a sample: in its four bits the count never wraps to the length of a frame. -/
theorem rxcnt_next_iff (s : State) :
    (s.rxcnt + 1).toNat = s.cfg.nFrame ↔ s.rxcnt.toNat + 1 = s.cfg.w + 3 := by
  have hcnt := s.rxcnt.isLt
  rcases s.cfg.w_cases with hw | hw <;> rw [Config.nFrame, hw] <;> simp [BitVec.toNat_add] <;> omega

theorem endFrame_raise_shiftIn (c : Condition) (l : Level) (s : State) :
    ((s.shiftIn l).raise c).endFrame =
      { s with rxacc := 0, rxcnt := 0, rxstate := .waitEdge, raised := some c } := rfl

/-- A low last sample is the image's stop bit: the frame is reported and dropped (42_receive.md R175). -/
theorem sampleCompare_lowStop {s : State} (hgie : s.gie = true) (harmed : s.rxArmed = true)
    (hsampling : s.rxstate = .sample) (hinstant : s.tcnt = s.rxcmp)
    (hlast : s.rxcnt.toNat + 1 = s.cfg.w + 3) :
    s.sampleCompare false = { s with
      rxacc := 0, rxcnt := 0, rxstate := .waitEdge, rxf := false
      raised := some (.frameError ((s.shiftIn false).acc.setWidth 12)) } := by
  have hinvalid : accValid (s.shiftIn false).acc = false := by
    refine Bool.eq_false_iff.mpr fun hvalid => ?_
    obtain ⟨-, hstop, -⟩ := (accValid_setWidth_iff (w := s.cfg.w) (s.shiftIn false).rxacc).mp hvalid
    rw [getLsbD_shiftIn] at hstop
    simp at hstop
  rw [sampleCompare_runs (sampleMatch_eq_true harmed hsampling hinstant) hgie, sample_rxf,
    sample_of_last ((rxcnt_next_iff s).mpr hlast), finalize_of_invalid hinvalid, endFrame_raise_shiftIn]

/-! ### Settled -/

/-- Settles O9: `clockCycle_quiet`. -/
theorem clkTickWithoutAnEvent : Obligations.ClkTickWithoutAnEvent := by
  intro l s htxf hicf hrxf hsample hedge htick
  rw [exec_clkTick, clockCycle_quiet (s := s.start) htxf hicf hrxf (sampleMatch_eq_false hsample)
    (edgeSeen_eq_false hedge) (transmitMatch_eq_false htick), advance_eq]
  rfl

/-- Settles O10: the receive engine is disarmed, so only the transmit compare acts; the value it finds decides
between the shift and the disarming. -/
theorem clkTickRunsTheTransmitTick : Obligations.ClkTickRunsTheTransmitTick := by
  intro l s hgie hdeaf harmed hend
  rw [exec_clkTick, clockCycle_deaf (s := s.start) hdeaf,
    transmitCompare_runs (s := s.start) (transmitMatch_eq_true harmed hend) hgie]
  by_cases hones : s.txreg = 0xFFFF#16
  · rw [tick_of_ones (s := { s.start with txf := false }) hones, advance_eq]
    simp [start, hones, hend]
  · rw [tick_of_shift (s := { s.start with txf := false }) hones, advance_eq]
    simp [start, hones, hend, harmed]

/-- Settles O11: `clockCycle_edge`, with TCNT as the captured time. -/
theorem clkTickCapturesTheStartEdge : Obligations.ClkTickCapturesTheStartEdge := by
  intro s hgie harmed hwait hhigh hdrained
  rw [exec_clkTick, clockCycle_edge (s := s.start) hgie harmed hwait hhigh hdrained, advance_eq]
  rfl

/-- Settles O12: both clauses are `clockCycle_sample`; before the last sample RX_SAMPLE is the shift. -/
theorem clkTickTakesASample : Obligations.ClkTickTakesASample := by
  intro l s hgie harmed hsampling hinstant hdrained
  have hcycle := @clockCycle_sample s.start l hgie harmed hsampling hinstant hdrained
  refine ⟨fun hbefore => ⟨(s.shiftIn l).rxacc, ?shift, s.getLsbD_shiftIn l⟩, fun hany =>
    ⟨s.start.sample l, exec_rxSample hgie harmed hsampling l, ?sample⟩⟩
  case shift =>
    have hmore : (s.start.rxcnt + 1).toNat ≠ s.start.cfg.nFrame := fun h => by
      have := (rxcnt_next_iff s.start).mp h
      simp at this
      omega
    rw [exec_clkTick, hcycle (.inl hmore), sample_of_more hmore, advance_eq]
    rfl
  case sample =>
    rw [exec_clkTick, hcycle (hany.imp_left (mt (rxcnt_next_iff s.start).mp)), advance_eq]
    obtain ⟨_, _, _, _, _, _, _, hframe⟩ := s.start.sample_frame l
    rw [hframe]
    rfl

/-- Settles O13: the low level is the image's stop bit, so the frame is finalised as invalid; the engine then
waits, and the same falling line opens the next frame. -/
theorem lastSampleThenEdgeInOneCycle : Obligations.LastSampleThenEdgeInOneCycle := by
  intro s hgie harmed hsampling hinstant hlast hhigh hdrained
  have hbits (k : Nat) (hk : k < s.cfg.w + 3) : ((s.start.shiftIn false).acc.setWidth 12).getLsbD k =
      if k < s.cfg.w + 2 then s.rxacc.getLsbD (k + 1) else decide (k = s.cfg.w + 2) && false := by
    have h12 : k < 12 := by have := s.cfg.w_le; omega
    rw [acc, BitVec.getLsbD_setWidth, BitVec.getLsbD_setWidth, decide_eq_true h12,
      decide_eq_true (show k < (s.start.shiftIn false).cfg.w + 3 from hk), getLsbD_shiftIn]
    rfl
  refine ⟨(s.start.shiftIn false).acc.setWidth 12, ?cycle, ?stop, fun k hk => ?image⟩
  case stop => simp [hbits]
  case image => rw [hbits k (by omega), if_pos hk]
  case cycle =>
    have hlow := sampleCompare_lowStop (s := s.start) hgie harmed hsampling hinstant hlast
    obtain ⟨hgie', harmed', hwait', hhigh', hdrained'⟩ : (s.start.sampleCompare false).gie = true ∧
        (s.start.sampleCompare false).rxArmed = true ∧
        (s.start.sampleCompare false).rxstate = .waitEdge ∧
        (s.start.sampleCompare false).ioPrev = true ∧
        (s.start.sampleCompare false).txArmed = false := by
      rw [hlow]
      exact ⟨hgie, harmed, rfl, hhigh, hdrained⟩
    rw [exec_clkTick, clockCycle, edgeCapture_transmitCompare hgie' harmed' hwait' hhigh' hdrained', hlow,
      advance_eq]
    rfl

/-- Settles O33: by `clockCycle_deaf` the level reaches the bookkeeping only. -/
theorem disarmedReceiverIgnoresTheLine : Obligations.DisarmedReceiverIgnoresTheLine := by
  intro s hdeaf
  refine ⟨s.start.transmitCompare.advance true, fun l => ?_⟩
  rw [exec_clkTick, clockCycle_deaf (s := s.start) hdeaf]
  rfl

end Sys2Proof.Machine
end

section
/-! PROOFS. The dispatcher's transitions, and the instruction byte it leaves alone (44_dispatcher.md R220, 20_memory.md R83). -/

namespace Sys2Proof.Machine

open State

/-! ### What a CLK cycle leaves alone -/

namespace State

variable (s : State) (l : Level)

@[simp] theorem clockCycle_dstate : (s.clockCycle l).dstate = s.dstate := by
  obtain ⟨_, _, _, _, _, _, _, _, _, _, _, _, _, _, _, h⟩ := s.clockCycle_frame l
  rw [h]

@[simp] theorem clockCycle_didx : (s.clockCycle l).didx = s.didx := by
  obtain ⟨_, _, _, _, _, _, _, _, _, _, _, _, _, _, _, h⟩ := s.clockCycle_frame l
  rw [h]

@[simp] theorem clockCycle_cmdbuf : (s.clockCycle l).cmdbuf = s.cmdbuf := by
  obtain ⟨_, _, _, _, _, _, _, _, _, _, _, _, _, _, _, h⟩ := s.clockCycle_frame l
  rw [h]

@[simp] theorem clockCycle_cfg : (s.clockCycle l).cfg = s.cfg := by
  obtain ⟨_, _, _, _, _, _, _, _, _, _, _, _, _, _, _, h⟩ := s.clockCycle_frame l
  rw [h]

end State

/-! ### What READ without a word leaves alone -/

theorem listens_frame {s t : State} (h : Listens s t) :
    t.dstate = s.dstate ∧ t.didx = s.didx ∧ t.cmdbuf = s.cmdbuf ∧ t.cfg = s.cfg ∧
      t.txreg = s.txreg ∧ t.txArmed = s.txArmed ∧ t.ioOut = s.ioOut := by
  cases h <;> exact ⟨rfl, rfl, rfl, rfl, rfl, rfl, rfl⟩

@[simp] theorem loadFrame_cmdbuf (code : Half) (s : State) : (s.loadFrame code).cmdbuf = s.cmdbuf := by
  obtain ⟨_, _, _, _, _, _, _, h⟩ := s.loadFrame_frame code
  rw [h]

@[simp] theorem loadFrame_cfg (code : Half) (s : State) : (s.loadFrame code).cfg = s.cfg := by
  obtain ⟨_, _, _, _, _, _, _, h⟩ := s.loadFrame_frame code
  rw [h]

/-! ### Transitions -/

theorem sends_mayFollow {s : State} {b : Byte} {d : DState} {x : Half} (h : Sends s b d x) :
    mayFollow s.dstate d = true := by
  cases h <;> simp only [*, mayFollow]

theorem takes_mayFollow {s : State} {b : Byte} {m : Memory} {d : DState} {x : Half}
    (h : Takes s b m d x) : mayFollow s.dstate d = true := by
  cases h <;> simp only [*, mayFollow]

theorem selectAction_mayFollow (s : State) (ins : Byte) :
    mayFollow .dispatch (s.selectAction ins).dstate = true := by
  rw [selectAction_dstate]
  split
  · rfl
  · split <;> rfl

/-- A dispatcher's turn leaves DSTATE or takes a transition of R220. -/
theorem dispatcherStep_mayFollow {s t : State} (h : DispatcherStep s t) :
    t.dstate = s.dstate ∨ mayFollow s.dstate t.dstate = true := by
  cases h with
  | blocked => exact .inl rfl
  | delayOver => exact .inl rfl
  | boot hd => exact .inr (by rw [hd]; rfl)
  | drained hd _ => exact .inr (by rw [hd]; rfl)
  | modeSwitch hd => exact .inr (by rw [hd]; rfl)
  | selected hd => exact .inr (by rw [hd]; exact selectAction_mayFollow ..)
  | cleared hd => exact .inr (by rw [hd]; rfl)
  | sent hsends _ => exact .inr (sends_mayFollow hsends)
  | listened _ hlistens => exact .inl (listens_frame hlistens).1
  | taken _ _ htakes => exact .inr (takes_mayFollow htakes)

/-- Settles O55: the dispatcher's turn is one of the listed next states, and a CLK cycle writes neither
element. -/
theorem dispatcherFollowsItsTransitions : Obligations.DispatcherFollowsItsTransitions := by
  intro s t i _
  refine ⟨fun hi ht => dispatcherStep_mayFollow (dispatcherStep_of_exec hi ht), fun l ht => ?clock⟩
  case clock =>
    cases ht
    exact ⟨s.start.clockCycle_dstate l, s.start.clockCycle_didx l⟩

/-! ### The instruction byte -/

/-- From the second header byte on, no byte taken in is stored at CMDBUF[1]. -/
theorem takes_keeps_instructionByte {s : State} {b : Byte} {m : Memory} {d : DState} {x : Half}
    (hwf : Memory.wf s.cmdbuf = true) (hidle : s.dstate ≠ .idle)
    (hlate : s.dstate = .header → 2 ≤ s.didx.toNat) (h : Takes s b m d x) :
    Memory.read m 1 = Memory.read s.cmdbuf 1 := by
  have hstore (a : Nat) (ha : 2 ≤ a) : Memory.read (Memory.store s.cmdbuf a b) 1 = Memory.read s.cmdbuf 1 := by
    rw [Memory.read_store hwf, if_neg (by omega)]
  cases h with
  | discarded hd => exact absurd hd hidle
  | classByte hd _ => exact absurd hd hidle
  | header hd _ => exact hstore _ (hlate hd)
  | headerLast hd _ => exact hstore _ (hlate hd)
  | payload hd _ => exact hstore _ (by omega)
  | payloadLast hd _ => exact hstore _ (by omega)

/-- Settles O60: CMDBUF is written by CLEAR and by the steps that take a byte in, and those store it at
DIDX in the header or behind the header. -/
theorem instructionByteIsStable : Obligations.InstructionByteIsStable := by
  intro s t a i hinv hreset hi ht hcycle
  have hclear : s.dstate ≠ .clear := by
    rintro hd
    simp [hd] at hcycle
  have hidle : s.dstate ≠ .idle := by
    rintro hd
    simp [hd] at hcycle
  have hlate (hd : s.dstate = .header) : 2 ≤ s.didx.toNat := by simpa [hd] using hcycle
  cases a with
  | reset => exact absurd rfl hreset
  | clock l =>
    cases hi
    cases ht
    rw [clockCycle_cmdbuf, start_cmdbuf]
  | dispatcher =>
    cases dispatcherStep_of_exec hi ht with
    | blocked => rfl
    | delayOver => rfl
    | boot hd => rfl
    | drained hd _ => rfl
    | modeSwitch hd => rfl
    | selected hd => rfl
    | cleared hd => exact absurd hd hclear
    | @sent b _ _ _ _ => exact congrArg (Memory.read · 1) (loadFrame_cmdbuf (s.byteCode b) s.start)
    | listened _ hlistens =>
      obtain ⟨-, -, hcmdbuf, -⟩ := listens_frame hlistens
      rw [hcmdbuf]
    | taken _ _ htakes => exact takes_keeps_instructionByte hinv.cmdbufWf hidle hlate htakes

end Sys2Proof.Machine
end

section
/-! PROOFS. In a run of the block's own agents every step leads on, in the run invariant (10_state.md section 12, 44_dispatcher.md R220). -/

namespace Sys2Proof.Machine

open State

/-! ### The labels and the turns -/

section
variable {s : State} (h : RunInv s)
include h

theorem run_labels (r : Result) (c : Option Condition) : RunInv { s with result := r, raised := c } :=
  { h with toEngineInv := inv_congr h.toEngineInv rfl }

theorem run_start : RunInv s.start := run_labels h _ _

theorem run_takeTurn : RunInv s.takeTurn.2 := by
  cases hagenda : s.agenda with
  | nil =>
    rw [takeTurn_nil hagenda]
    exact { h with toEngineInv := inv_congr h.toEngineInv rfl }
  | cons t ts =>
    rw [takeTurn_cons hagenda]
    exact { h with
      toEngineInv := inv_congr h.toEngineInv rfl
      agendaIsAgents := fun t' ht' => h.agendaIsAgents t' (by rw [hagenda]; exact .tail _ ht') }

/-- Only agents take turns: the head of the agenda, or the free turn. -/
theorem takeTurn_isAgent : ∃ a, s.takeTurn.1 = .agent a := by
  cases hagenda : s.agenda with
  | nil => exact ⟨_, by rw [takeTurn_nil hagenda]⟩
  | cons t ts =>
    rw [takeTurn_cons hagenda]
    exact h.agendaIsAgents t (by rw [hagenda]; exact .head _)

/-! ### BOOT, MODE_SWITCH and DISPATCH -/

/-- READ is in progress only inside a step that contains it. -/
theorem rdphase_start (hr : s.reading = false) : s.rdphase = .start := by
  by_contra hne
  exact Bool.eq_false_iff.mp hr (h.readByState hne)

theorem run_boot (hd : s.dstate = .boot) :
    RunInv { s.start.configure .handshake with didx := 0, dstate := .atrTx } := by
  have hpower : s.poweringOn = true := (poweringOn_iff s).mpr (.inl hd)
  have hmode := h.modeByState.mpr hpower
  have hphase := rdphase_start h (by simp [reading, hd])
  exact { h with
    toEngineInv := inv_congr (inv_configure (inv_start h.toEngineInv) .handshake) rfl
    maskedIsBoot := by simp
    flagsClear := ⟨rfl, rfl, rfl⟩
    bootIsQuiet := nofun
    switchIsDrained := nofun
    modeByState := by simp [hmode, poweringOn]
    periodByMode := by simp [hmode]
    powerOnIsDeaf := fun _ => h.powerOnIsDeaf hpower
    dstateNamed := nofun
    readByState := fun hne => absurd hphase hne
    rxcmpBelowPeriod := fun hsampling => by
      have hwait : s.rxstate = .waitEdge := h.disarmedWaits (h.powerOnIsDeaf hpower)
      simp [hwait] at hsampling
    didxRange := by simp [didxInRange]
    classByte := by simp [inCommand]
    cwByte := by simp
    bufferZeroed := fun _ => h.bufferZeroed (.inl hpower) }

theorem run_modeSwitch (hd : s.dstate = .modeSwitch) : RunInv
    { State.configure .operating { s.start with mode := .operating } with dstate := .idle } := by
  have hpower : s.poweringOn = true := (poweringOn_iff s).mpr (.inr (.inr (.inr hd)))
  have hphase := rdphase_start h (by simp [reading, hd])
  have hE : EngineInv { s.start with mode := .operating } := inv_congr h.toEngineInv rfl
  exact { h with
    toEngineInv := inv_congr (inv_configure hE .operating) rfl
    maskedIsBoot := by simp
    flagsClear := ⟨rfl, rfl, rfl⟩
    bootIsQuiet := nofun
    switchIsDrained := nofun
    modeByState := by simp [poweringOn]
    periodByMode := rfl
    powerOnIsDeaf := by simp [poweringOn]
    dstateNamed := nofun
    readByState := fun hne => absurd hphase hne
    rxcmpBelowPeriod := fun hsampling => by
      have hwait : s.rxstate = .waitEdge := h.disarmedWaits (h.powerOnIsDeaf hpower)
      simp [hwait] at hsampling
    didxRange := by simp [didxInRange]
    classByte := by simp [inCommand]
    cwByte := by simp
    bufferZeroed := fun _ => h.bufferZeroed (.inl hpower) }

/-- A step into a state of a command cycle keeps the run invariant, if CMDBUF holds the header that the
state asks for and DIDX is in its range. -/
theorem run_toCommand {m : Memory} {d : DState} {x : Half} (hwf : Memory.wf m = true)
    (hphase : s.rdphase = .start) (hon : s.poweringOn = false)
    (hd : ({ s with cmdbuf := m, dstate := d, didx := x } : State).inCommand = true)
    (hrange : ({ s with cmdbuf := m, dstate := d, didx := x } : State).didxInRange)
    (hclass : Memory.read m 0 = 0x53#8) (hcw : d = .cwEcho ∨ d = .cwRx → Memory.read m 1 = s.cfg.insCw) :
    RunInv { s with cmdbuf := m, dstate := d, didx := x } := by
  have hboot : s.dstate ≠ .boot := fun hb => by simp [poweringOn, hb] at hon
  simp only [inCommand, List.contains_iff_mem, List.mem_cons, List.not_mem_nil, or_false] at hd
  refine run_disp h hwf hphase hboot ?_ ?_ ?_ ?_ hrange (fun _ => hclass) hcw ?_
  case refine_4 => rw [hon]; rcases hd with rfl | rfl | rfl | rfl | rfl | rfl <;> rfl
  all_goals rcases hd with rfl | rfl | rfl | rfl | rfl | rfl <;> simp [hon]

/-- DISPATCH leads to the echo for INS_CW, else to a table with a byte to send, or to the trailer. -/
theorem run_selected (hd : s.dstate = .dispatch) :
    RunInv (s.start.selectAction (Memory.read s.cmdbuf 1)) := by
  have hphase := rdphase_start h (by simp [reading, hd])
  have hon : s.poweringOn = false := by simp [poweringOn, hd]
  have hclass : Memory.read s.cmdbuf 0 = 0x53#8 := h.classByte (by simp [inCommand, hd])
  have hto (d : DState) (hcases : d = .cwEcho ∧ Memory.read s.cmdbuf 1 = s.cfg.insCw ∨ d = .trailerTx ∨
      d = .bodyTx ∧ resp s.cfg (Memory.read s.cmdbuf 1) ≠ []) :
      RunInv { s.start with cmdbuf := s.cmdbuf, dstate := d, didx := 0 } := by
    rcases hcases with ⟨rfl, hcw⟩ | rfl | ⟨rfl, hbody⟩
    · exact run_toCommand (run_start h) h.cmdbufWf hphase hon rfl trivial hclass fun _ => hcw
    · exact run_toCommand (run_start h) h.cmdbufWf hphase hon rfl (by simp [didxInRange]) hclass (by simp)
    · exact run_toCommand (run_start h) h.cmdbufWf hphase hon rfl (List.length_pos_iff.mpr hbody) hclass
        (by simp)
  refine run_labels (hto _ ?_) .done _
  by_cases hcw : Memory.read s.cmdbuf 1 = s.cfg.insCw
  · exact .inl ⟨if_pos hcw, hcw⟩
  by_cases hempty : resp s.cfg (Memory.read s.cmdbuf 1) = []
  · exact .inr (.inl ((if_neg hcw).trans (if_pos hempty)))
  · exact .inr (.inr ⟨(if_neg hcw).trans (if_neg hempty), hempty⟩)

/-! ### Sending -/

theorem sends_didxInRange {b : Byte} {d : DState} {x : Half} (hsends : Sends s b d x) {u : State}
    (hcfg : u.cfg = s.cfg) (hcmdbuf : u.cmdbuf = s.cmdbuf) :
    ({ u with dstate := d, didx := x } : State).didxInRange := by
  have hrange := h.didxRange
  cases hsends with
  | atr hd hmore =>
    simp only [didxInRange, hd] at hrange ⊢
    bv_omega
  | atrLast hd hlast => trivial
  | body hd hmore =>
    simp only [didxInRange, hd, hcfg, hcmdbuf] at hrange ⊢
    have hnext : (s.didx + 1).toNat ≤ s.didx.toNat + 1 := by bv_omega
    omega
  | bodyLast hd hlast => simp [didxInRange]
  | echo hd => simp [didxInRange]
  | trailer hd hmore =>
    simp only [didxInRange, hd] at hrange ⊢
    bv_omega
  | trailerLast hd hlast => trivial

theorem run_sent {b : Byte} {d : DState} {x : Half} (hsends : Sends s b d x)
    (hdrained : s.txArmed = false) :
    RunInv { s.start.loadFrame (s.byteCode b) with dstate := d, didx := x } := by
  have hrange := @sends_didxInRange s h b d x hsends
  refine run_send (go := fun u => { u with dstate := d, didx := x }) h (afterSend_of_drained hdrained _ _)
    ?_ ?_ fun u hu => ⟨d, x, rfl, ?_, ?_, ?_, ?_, hrange (u := u) (hu ▸ loadFrame_cfg _ s.start)
      (hu ▸ loadFrame_cmdbuf _ s.start), ?_, ?_, ?_⟩
  all_goals cases hsends <;> simp [reading, poweringOn, inCommand, *]

/-! ### Taking a word in -/

theorem run_qTake (hphase : s.rdphase = .wait) (hword : s.qcount ≠ 0) :
    RunInv { s.start.qTake with rdphase := .start } := by
  refine run_read (go := fun _ u => u) h ?_ (h.readByState (by simp [hphase])) fun _ _ _ hu => hu
  rw [afterRead, readStep_value (s := s.start) hphase hword]

theorem run_taken {b : Byte} {m : Memory} {d : DState} {x : Half} (hphase : s.rdphase = .wait)
    (hword : s.qcount ≠ 0) (htakes : Takes s b m d x) :
    RunInv { s.start.qTake with rdphase := .start, cmdbuf := m, dstate := d, didx := x } := by
  have hqTake := run_qTake h hphase hword
  have hrange := h.didxRange
  have hwf (a : Nat) (v : Byte) : Memory.wf (Memory.store s.cmdbuf a v) = true :=
    Memory.wf_store h.cmdbufWf a v
  have hread (a : Nat) (v : Byte) (j : Nat) := Memory.read_store h.cmdbufWf a v j
  cases htakes with
  | discarded hd => rw [← hd]; exact hqTake
  | classByte hd hb =>
    exact run_toCommand hqTake (hwf 0 b) rfl (by simp [poweringOn, hd]) rfl (by simp [didxInRange])
      (by simp [hread, hb, cla, cmdbufLen]) (by simp)
  | header hd hmore =>
    simp only [didxInRange, hd] at hrange
    have hclass := h.classByte (by simp [inCommand, hd])
    refine run_toCommand hqTake (hwf _ b) rfl (by simp [poweringOn, hd]) rfl ?_ ?_ (by simp)
    · simp only [didxInRange]
      bv_omega
    · rw [hread, if_neg (by omega), hclass]
  | headerLast hd hlast =>
    simp only [didxInRange, hd] at hrange
    have hclass := h.classByte (by simp [inCommand, hd])
    refine run_toCommand hqTake (hwf _ b) rfl (by simp [poweringOn, hd]) rfl trivial ?_ (by simp)
    rw [hread, if_neg (by omega), hclass]
  | payload hd hmore =>
    simp only [didxInRange, hd] at hrange
    have hclass := h.classByte (by simp [inCommand, hd])
    refine run_toCommand hqTake (hwf _ b) rfl (by simp [poweringOn, hd]) rfl ?_ ?_ fun _ => ?_
    · simp only [didxInRange]
      bv_omega
    · rw [hread, if_neg (by omega), hclass]
    · rw [hread, if_neg (by omega), h.cwByte (.inr hd)]
      rfl
  | payloadLast hd hlast =>
    have hclass := h.classByte (by simp [inCommand, hd])
    refine run_toCommand hqTake (hwf _ b) rfl (by simp [poweringOn, hd]) rfl (by simp [didxInRange]) ?_
      (by simp)
    rw [hread, if_neg (by omega), hclass]

theorem run_listened {t : State} (hreading : s.reading = true) (hlistens : Listens s t) : RunInv t := by
  refine run_read (go := fun _ u => u) h ?_ hreading fun _ _ _ hu => hu
  cases hlistens with
  | armed hphase harmed => rw [afterRead, readStep_armed (s := s.start) hphase harmed]
  | turning hphase hdeaf hdrained =>
    rw [afterRead, readStep_turn (s := s.start) hphase hdeaf hdrained]
    rfl
  | turned hphase hover hdrained =>
    rw [afterRead, readStep_listen (s := s.start) hphase ⟨hover, hdrained⟩]

/-! ### Every turn -/

theorem run_dispatcherStep {t : State} (hstep : DispatcherStep s t) : RunInv t := by
  cases hstep with
  | blocked => exact run_blocked h
  | delayOver => exact { h with toEngineInv := inv_congr h.toEngineInv rfl }
  | boot hd => exact run_boot h hd
  | drained hd hdrained =>
    have hphase := rdphase_start h (by simp [reading, hd])
    have hempty := h.bufferZeroed (.inl (by simp [poweringOn, hd]))
    exact run_disp (m := s.cmdbuf) (x := s.didx) (run_start h) h.cmdbufWf hphase (by simp [hd]) (by simp)
      (fun _ => hdrained) (by simp) (by simp [poweringOn, hd]) trivial (by simp [inCommand]) (by simp)
      fun _ => hempty
  | modeSwitch hd => exact run_modeSwitch h hd
  | selected hd => exact run_selected h hd
  | cleared hd =>
    have hphase := rdphase_start h (by simp [reading, hd])
    exact run_disp (run_start h) Memory.wf_nil hphase (by simp [hd]) (by simp) (by simp) (by simp)
      (by simp [poweringOn, hd]) trivial (by simp [inCommand]) (by simp) fun _ => rfl
  | sent hsends hdrained => exact run_sent h hsends hdrained
  | listened hreading hlistens => exact run_listened h hreading hlistens
  | taken hphase hword htakes => exact run_taken h hphase hword htakes

/-- The dispatcher has an instruction for its turn, and it goes on: DSTATE and RDPHASE are named. -/
theorem dispatcher_goes_on : ∃ i t, s.agentInstr .dispatcher = some i ∧ exec i s = .next t := by
  have hread := @afterRead_next s h.rdphaseNamed
  have hsend (code : Half) (go : State → State) : ∃ t, s.afterSend code go = .next t := by
    rw [afterSend]
    split <;> exact ⟨_, rfl⟩
  cases hphase : s.delayPhase with
  | wait n =>
    refine ⟨.delay n, ?_⟩
    rw [exec, execDelay, hphase]
    dsimp only
    split <;> exact ⟨_, dispatcherInstr_wait hphase, rfl⟩
  | start =>
    rw [agentInstr_dispatcher hphase, programInstr]
    cases hd : s.dstate with
    | boot => exact ⟨_, _, rfl, exec_boot hd⟩
    | atrTx => obtain ⟨t, ht⟩ := hsend _ _; exact ⟨_, t, rfl, (exec_atrTx hd).trans ht⟩
    | atrDrain =>
      obtain ⟨t, ht⟩ : ∃ t, exec .atrDrain s = .next t := by
        rw [exec_atrDrain hd]
        split <;> exact ⟨_, rfl⟩
      exact ⟨_, t, rfl, ht⟩
    | modeSwitch => exact ⟨_, _, rfl, exec_modeSwitch hd⟩
    | idle => obtain ⟨t, ht⟩ := hread _; exact ⟨_, t, rfl, (exec_idle hd).trans ht⟩
    | header => obtain ⟨t, ht⟩ := hread _; exact ⟨_, t, rfl, (exec_header hd).trans ht⟩
    | dispatch => exact ⟨_, _, rfl, (exec_commandInstr hd).trans (exec_dispatch hd)⟩
    | bodyTx => obtain ⟨t, ht⟩ := hsend _ _; exact ⟨_, t, rfl, (exec_bodyTx hd).trans ht⟩
    | cwEcho => obtain ⟨t, ht⟩ := hsend _ _; exact ⟨_, t, rfl, (exec_cwEcho hd).trans ht⟩
    | cwRx => obtain ⟨t, ht⟩ := hread _; exact ⟨_, t, rfl, (exec_cwRx hd).trans ht⟩
    | trailerTx => obtain ⟨t, ht⟩ := hsend _ _; exact ⟨_, t, rfl, (exec_trailerTx hd).trans ht⟩
    | clear => exact ⟨_, _, rfl, exec_clear hd⟩
    | reserved k => exact absurd hd (h.dstateNamed k)

/-- Every agent's turn goes on, in the run invariant. -/
theorem run_agent (a : Agent) :
    ∃ i t, s.agentInstr a = some i ∧ exec i s = .next t ∧ RunInv t := by
  cases a with
  | clock l => exact ⟨_, _, rfl, rfl, run_clock h l⟩
  | reset => exact ⟨_, _, rfl, rfl, run_reset h⟩
  | dispatcher =>
    obtain ⟨i, t, hi, ht⟩ := dispatcher_goes_on h
    exact ⟨i, t, hi, ht, run_dispatcherStep h (dispatcherStep_of_exec hi ht)⟩

end

/-- Settles O54: the next turn is an agent's, and `run_agent` holds of the state without it. -/
theorem everyRunGoesOnInTheInvariant : Obligations.EveryRunGoesOnInTheInvariant := by
  intro s h
  obtain ⟨a, ha⟩ := takeTurn_isAgent h
  obtain ⟨i, t, hi, ht, hrun⟩ := run_agent (run_takeTurn h) a
  refine ⟨t, ?_, hrun⟩
  rw [step_of_fetch h.cfgOk (u := s.takeTurn.2) (i := i) (by rw [fetch, ha]; exact fetchTurn_agent hi), ht]

/-! ### The state after reset -/

theorem inv_resetWith {c : Config} (hok : c.ok = true) : EngineInv (State.resetWith c) := by
  have hperiod := periodOf_ge hok .handshake
  obtain ⟨-, -, -, -, -, -, -, hqcap, -⟩ := of_decide_eq_true hok
  refine ⟨hok, .inl rfl, ?_, fun _ => rfl, fun _ => rfl, fun _ => rfl, nofun, fun _ => rfl,
    fun _ => ⟨rfl, rfl⟩, ?_, ?_, ?_, Nat.zero_le _, hqcap, (Nat.zero_mod _).symm, Memory.wf_nil⟩
  · exact Nat.lt_of_lt_of_le Nat.zero_lt_two hperiod
  · simp [State.resetWith, Config.nFrame]
  · simp [State.resetWith]
  · simp [State.resetWith]

/-- Settles O50: nothing is armed, pending or queued after reset, and the dispatcher is at BOOT, which owes
the ATR. -/
theorem resetStateMeetsTheInvariants : Obligations.ResetStateMeetsTheInvariants := by
  intro c hok
  refine ⟨inv_resetWith hok, ?run, rfl⟩
  case run =>
    refine ⟨inv_resetWith hok, ?_, ?_, ?_, ?_, ?_, ?_, ?_, ?_, ?_, ?_, ?_, ?_, ?_, ?_, ?_, ?_, ?_, ?_, ?_⟩ <;>
      simp [State.resetWith, poweringOn, reading, inCommand, didxInRange, queueView, periodOf]

end Sys2Proof.Machine
end

section
/-! PROOFS. The bytes owed to the line are sent whole and in order (44_dispatcher.md sections 1, 5 and 7). -/

namespace Sys2Proof.Machine

open State

/-! ### The transmit engine in a CLK cycle -/

namespace State

/-- The frame in flight: what TX_TICK works on. -/
def inFlight (s : State) : Half × Bool × Level := (s.txreg, s.txArmed, s.ioOut)

variable {s : State} {l : Level}

/-- TX_TICK works on the frame in flight alone. -/
theorem inFlight_tick_congr {u : State} (h : u.inFlight = s.inFlight) :
    u.tick.inFlight = s.tick.inFlight := by
  simp only [inFlight, Prod.mk.injEq] at h
  obtain ⟨hreg, harmed, -⟩ := h
  by_cases hones : s.txreg = 0xFFFF#16
  · rw [tick_of_ones hones, tick_of_ones (hreg.trans hones)]
    simp [inFlight, hreg]
  · rw [tick_of_shift hones, tick_of_shift (by rwa [hreg])]
    simp [inFlight, hreg, harmed]

/-- The receive engine's two events write nothing that the transmit compare reads. -/
theorem receive_frame (s : State) (l : Level) :
    ((s.sampleCompare l).edgeCapture l).inFlight = s.inFlight ∧
    ((s.sampleCompare l).edgeCapture l).txArmed = s.txArmed ∧
    ((s.sampleCompare l).edgeCapture l).txf = s.txf ∧ ((s.sampleCompare l).edgeCapture l).gie = s.gie ∧
    ((s.sampleCompare l).edgeCapture l).tcnt = s.tcnt ∧
    ((s.sampleCompare l).edgeCapture l).period = s.period := by
  obtain ⟨_, _, _, _, _, _, _, _, h1⟩ := s.sampleCompare_frame l
  obtain ⟨_, _, _, _, _, _, h2⟩ := (s.sampleCompare l).edgeCapture_frame l
  rw [h2, h1]
  exact ⟨rfl, rfl, rfl, rfl, rfl, rfl⟩

@[simp] theorem inFlight_advance (s : State) (l : Level) : (s.advance l).inFlight = s.inFlight := rfl

/-- Before the end of the bit period, or drained, a CLK cycle leaves the frame in flight alone. -/
theorem inFlight_clockCycle_quiet (htxf : s.txf = false)
    (hquiet : ¬ (s.txArmed = true ∧ s.tcnt = s.period - 1)) :
    (s.clockCycle l).inFlight = s.inFlight := by
  obtain ⟨hframe, harmed, hflag, -, htcnt, hperiod⟩ := s.receive_frame l
  rw [clockCycle, inFlight_advance, transmitCompare_quiet (transmitMatch_eq_false ?_) (hflag.trans htxf), hframe]
  rwa [harmed, htcnt, hperiod]

/-- At the end of the bit period a CLK cycle takes one tick of an armed frame. -/
theorem inFlight_clockCycle_tick (hgie : s.gie = true) (harmed : s.txArmed = true)
    (hend : s.tcnt = s.period - 1) : (s.clockCycle l).inFlight = s.tick.inFlight := by
  obtain ⟨hframe, harmed', -, hgie', htcnt, hperiod⟩ := s.receive_frame l
  rw [clockCycle, inFlight_advance, transmitCompare_runs (transmitMatch_eq_true (harmed'.trans harmed) ?_)
    (hgie'.trans hgie)]
  · exact inFlight_tick_congr hframe
  · rw [htcnt, hperiod, hend]

end State

/-! ### The bytes owed, by DSTATE -/

theorem owed_congr {s t : State} (hdstate : t.dstate = s.dstate) (hdidx : t.didx = s.didx)
    (hcfg : t.cfg = s.cfg) (hcmdbuf : t.cmdbuf = s.cmdbuf) : t.owed = s.owed := by
  simp only [owed, hdstate, hdidx, hcfg, hcmdbuf]

theorem owed_idle {s : State} (h : s.dstate = .idle) : s.owed = [] := by
  rw [owed, h]

theorem owed_header {s : State} (h : s.dstate = .header) : s.owed = [] := by
  rw [owed, h]

theorem owed_boot {s : State} (hd : s.dstate = .boot) {t : State} (hdstate : t.dstate = .atrTx) (hdidx : t.didx = 0)
    (hcfg : t.cfg = s.cfg) : t.owed = s.owed := by
  simp [owed, hd, hdstate, hdidx, hcfg]

/-- The rest of a table is its next byte and what follows. -/
theorem drop_eq_tableByte_cons {t : List Byte} {i : Nat} (h : i < t.length) :
    t.drop i = tableByte t i :: t.drop (i + 1) := by
  rw [List.drop_eq_getElem_cons h, tableByte_of_lt h]

/-- Every response table is shorter than DIDX can count (10_state.md R47). -/
theorem length_resp_lt {c : Config} (hok : c.ok = true) (ins : Byte) :
    (resp c ins).length < 2 ^ 16 := by
  obtain ⟨-, -, -, -, -, -, -, -, -, hserial, hmsg, hmbox, -⟩ := of_decide_eq_true hok
  unfold resp
  split
  · exact hserial
  split
  · decide
  split
  · exact hmsg
  split
  · exact hmbox
  · decide

/-- A 16-bit count below a bound of 16 bits goes up by one without wrapping. -/
theorem toNat_half_succ {x : Half} {n : Nat} (hx : x.toNat < n) (hn : n < 2 ^ 16) :
    (x + 1).toNat = x.toNat + 1 := by
  rw [BitVec.toNat_add]
  exact Nat.mod_eq_of_lt (by simp; omega)

section
variable {s : State} (h : RunInv s)
include h

/-- A frame is in flight only with events enabled: nothing is armed before BOOT. -/
theorem gie_of_txArmed (harmed : s.txArmed = true) : s.gie = true := by
  by_contra hmasked
  simp [h.bootIsQuiet (h.maskedIsBoot.mp (Bool.eq_false_iff.mpr hmasked))] at harmed

/-- A step that sends takes the first byte owed and owes the rest. -/
theorem owed_of_sends {b : Byte} {d : DState} {x : Half} (hsends : Sends s b d x) {t : State}
    (hdstate : t.dstate = d) (hdidx : t.didx = x) (hcfg : t.cfg = s.cfg) (hcmdbuf : t.cmdbuf = s.cmdbuf) :
    s.owed = b :: t.owed := by
  have hrange := h.didxRange
  obtain ⟨-, -, -, -, -, -, -, -, hatr, -⟩ := of_decide_eq_true h.cfgOk
  cases hsends with
  | atr hd hmore =>
    simp only [didxInRange, hd] at hrange
    simp only [owed, hd, hdstate, hcfg, hdidx]
    rw [toNat_half_succ hrange (by decide), drop_eq_tableByte_cons (by omega)]
  | atrLast hd hlast =>
    simp only [didxInRange, hd] at hrange
    have hnext := toNat_half_succ hrange (by decide)
    simp only [owed, hd, hdstate]
    rw [drop_eq_tableByte_cons (by omega), List.drop_of_length_le (by rw [← hnext, hlast, hatr]; decide)]
  | body hd hmore =>
    simp only [didxInRange, hd] at hrange
    simp only [owed, hd, hdstate, hcfg, hcmdbuf, hdidx]
    rw [toNat_half_succ hrange (length_resp_lt h.cfgOk _), drop_eq_tableByte_cons hrange,
      List.cons_append]
  | bodyLast hd hlast =>
    simp only [didxInRange, hd] at hrange
    have hnext := toNat_half_succ hrange (length_resp_lt h.cfgOk _)
    simp only [owed, hd, hdstate, hdidx]
    rw [drop_eq_tableByte_cons hrange, List.drop_of_length_le (by omega)]
    rfl
  | echo hd => simp only [owed, hd, hdstate]
  | trailer hd hmore =>
    simp only [didxInRange, hd] at hrange
    simp only [owed, hd, hdstate, hdidx]
    rw [toNat_half_succ hrange (by decide)]
    exact drop_eq_tableByte_cons (t := trailer) hrange
  | trailerLast hd hlast =>
    simp only [didxInRange, hd] at hrange
    have hnext := toNat_half_succ hrange (by decide)
    simp only [owed, hd, hdstate]
    refine (drop_eq_tableByte_cons (t := trailer) hrange).trans ?_
    rw [List.drop_of_length_le (by rw [← hnext, hlast]; decide)]

omit h in
/-- A byte taken in leaves what is owed, unless it completes the header. -/
theorem owed_of_takes {b : Byte} {m : Memory} {d : DState} {x : Half} (htakes : Takes s b m d x)
    {t : State} (hdstate : t.dstate = d) (hdidx : t.didx = x) :
    t.owed = s.owed ∨ s.dstate = .header ∧ t.dstate = .dispatch := by
  cases htakes with
  | discarded hd => exact .inl (by rw [owed_idle hd, owed_idle hdstate])
  | classByte hd hb => exact .inl (by rw [owed_idle hd, owed_header hdstate])
  | header hd hmore => exact .inl (by rw [owed_header hd, owed_header hdstate])
  | headerLast hd hlast => exact .inr ⟨hd, hdstate⟩
  | payload hd hmore => exact .inl (by simp only [owed, hd, hdstate])
  | payloadLast hd hlast => exact .inl (by simp [owed, hd, hdstate, hdidx])

/-- CONFIGURE empties TXREG where it is empty already, so it cuts no frame short (R303). -/
theorem inFlight_of_drained (hdrained : s.txArmed = false) {t : State} (hreg : t.txreg = 0xFFFF#16)
    (harmed : t.txArmed = s.txArmed) (hout : t.ioOut = s.ioOut) : t.inFlight = s.inFlight := by
  rw [inFlight, inFlight, hreg, harmed, hout, h.drainedIsEmpty hdrained]

end

/-- Settles O56: a CLK cycle leaves the dispatcher alone and takes a tick at most; a dispatcher's turn that
sends, sends the first byte owed; CONFIGURE runs with the engine drained; and only the last header byte begins
a new response. -/
theorem owedBytesAreSentInOrder : Obligations.OwedBytesAreSentInOrder := by
  intro s t a i h hreset hi ht
  cases a with
  | reset => exact absurd rfl hreset
  | clock l =>
    cases hi
    cases ht
    refine .inl ⟨owed_congr (clockCycle_dstate ..) (clockCycle_didx ..) (clockCycle_cfg ..)
      (clockCycle_cmdbuf ..), ?_⟩
    by_cases htick : s.txArmed = true ∧ s.tcnt = s.period - 1
    · obtain ⟨harmed, hend⟩ := htick
      have hgie := gie_of_txArmed h harmed
      refine .inr ⟨nofun, harmed, _, exec_txTick hgie harmed, ?_,
        inFlight_clockCycle_tick (s := s.start) hgie harmed hend⟩
      obtain ⟨_, _, hframe⟩ := s.start.tick_frame
      rw [hframe]
      rfl
    · exact .inl (inFlight_clockCycle_quiet (s := s.start) h.flagsClear.1 htick)
  | dispatcher =>
    cases dispatcherStep_of_exec hi ht with
    | blocked => exact .inl ⟨rfl, .inl rfl⟩
    | delayOver => exact .inl ⟨rfl, .inl rfl⟩
    | boot hd =>
      exact .inl ⟨owed_boot hd rfl rfl rfl, .inl (inFlight_of_drained h (h.bootIsQuiet hd) rfl rfl rfl)⟩
    | drained hd _ => exact .inl ⟨by simp only [owed, hd], .inl rfl⟩
    | modeSwitch hd =>
      exact .inl ⟨by simp only [owed, hd], .inl (inFlight_of_drained h (h.switchIsDrained hd) rfl rfl rfl)⟩
    | selected hd =>
      refine .inl ⟨?_, .inl rfl⟩
      refine (owed_selectAction (s := s.start) rfl).trans ?_
      rw [owed, hd]
      rfl
    | cleared hd => exact .inl ⟨by simp only [owed, hd], .inl rfl⟩
    | @sent b d x hsends hdrained =>
      have hrest := owed_of_sends h hsends
        (t := { s.start.loadFrame (s.byteCode b) with dstate := d, didx := x }) rfl rfl
        (loadFrame_cfg (s.byteCode b) s.start) (loadFrame_cmdbuf (s.byteCode b) s.start)
      exact .inr (.inl ⟨b, hrest, hdrained, rfl, loadFrame_dir (s.byteCode b) s.start, rfl⟩)
    | listened _ hlistens =>
      obtain ⟨hdstate, hdidx, hcmdbuf, hcfg, hreg, harmed, hout⟩ := listens_frame hlistens
      exact .inl ⟨owed_congr hdstate hdidx hcfg hcmdbuf, .inl (by rw [hreg, harmed, hout])⟩
    | @taken b m d x hphase hword htakes =>
      rcases owed_of_takes htakes (t := { s.start.qTake with
        rdphase := .start, cmdbuf := m, dstate := d, didx := x }) rfl rfl with howed | ⟨hheader, hdispatch⟩
      · exact .inl ⟨howed, .inl rfl⟩
      · refine .inr (.inr ⟨hheader, hdispatch, owed_header hheader, ?_, rfl⟩)
        rw [owed, hdispatch]
        rfl

end Sys2Proof.Machine
end

section
/-! PROOFS. Runs of CLK cycles: the timer counts them, and a frame in flight takes one tick per period (40_timing_baud.md R133, R135, R138). -/

namespace Sys2Proof.Machine

open State

/-! ### A run of CLK cycles -/

/-- The state after the CLK_TICKs of a waveform. -/
def State.afterClocks (levels : List Level) (s : State) : State :=
  levels.foldl (fun u l => u.start.clockCycle l) s

namespace State

@[simp] theorem afterClocks_nil (s : State) : s.afterClocks [] = s := rfl

@[simp] theorem afterClocks_cons (l : Level) (levels : List Level) (s : State) :
    s.afterClocks (l :: levels) = (s.start.clockCycle l).afterClocks levels := rfl

theorem afterClocks_append (levels more : List Level) (s : State) :
    s.afterClocks (levels ++ more) = (s.afterClocks levels).afterClocks more := List.foldl_append

end State

/-- A run of CLK_TICKs always goes through. -/
theorem runInstrs_clockTicks (levels : List Level) (s : State) :
    runInstrs (clockTicks levels) s = some (s.afterClocks levels) := by
  induction levels generalizing s with
  | nil => rfl
  | cons l levels ih => exact (runInstrs_cons (exec_clkTick l s)).trans (ih _)

/-! ### The timer -/

namespace State

variable (s : State) (l : Level)

@[simp] theorem clockCycle_period : (s.clockCycle l).period = s.period := by
  obtain ⟨_, _, _, _, _, _, _, _, _, _, _, _, _, _, _, h⟩ := s.clockCycle_frame l
  rw [h]

theorem clockCycle_tcnt :
    (s.clockCycle l).tcnt = if s.tcnt = s.period - 1 then 0 else s.tcnt + 1 := by
  obtain ⟨_, _, _, _, _, _, _, _, _, _, _, _, _, _, _, h⟩ := s.clockCycle_frame l
  rw [h]

theorem clockCycle_delaycnt :
    (s.clockCycle l).delaycnt = if s.delaycnt = 0 then 0 else s.delaycnt - 1 := by
  obtain ⟨_, _, _, _, _, _, _, _, _, _, _, _, _, _, _, h⟩ := s.clockCycle_frame l
  rw [h]

end State

/-- The end of the bit period, as a number. -/
theorem tcnt_eq_last_iff {s : State} (h : EngineInv s) :
    s.tcnt = s.period - 1 ↔ s.tcnt.toNat + 1 = s.period.toNat := by
  have := h.tcntBelowPeriod
  have := s.period.isLt
  bv_omega

/-- TCNT counts a CLK cycle modulo PERIOD (R133). -/
theorem toNat_tcnt_clockCycle {s : State} (h : EngineInv s) (l : Level) :
    (s.clockCycle l).tcnt.toNat = (s.tcnt.toNat + 1) % s.period.toNat := by
  have hbelow := h.tcntBelowPeriod
  have hlast := tcnt_eq_last_iff h
  rw [clockCycle_tcnt]
  split
  next hend => rw [hlast.mp hend, Nat.mod_self]; rfl
  next hmore =>
    have hne : s.tcnt.toNat + 1 ≠ s.period.toNat := fun e => hmore (hlast.mpr e)
    rw [toNat_half_succ (n := s.period.toNat - 1) (by omega) (by omega), Nat.mod_eq_of_lt (by omega)]

/-- DELAYCNT counts a CLK cycle down to 0 (R138). -/
theorem toNat_delaycnt_clockCycle (s : State) (l : Level) :
    (s.clockCycle l).delaycnt.toNat = s.delaycnt.toNat - 1 := by
  rw [clockCycle_delaycnt]
  split
  next hzero => rw [hzero]; rfl
  next hmore => bv_omega

/-- Settles O15: `toNat_tcnt_clockCycle` and `toNat_delaycnt_clockCycle`, cycle by cycle; a CLK cycle keeps
the invariant and PERIOD. -/
theorem timerCountsModuloPeriod : Obligations.TimerCountsModuloPeriod := by
  intro levels s h
  refine ⟨s.afterClocks levels, runInstrs_clockTicks levels s, ?_⟩
  induction levels generalizing s with
  | nil => exact ⟨(Nat.mod_eq_of_lt h.tcntBelowPeriod).symm, rfl⟩
  | cons l levels ih =>
    obtain ⟨htcnt, hdelaycnt⟩ := ih (s.start.clockCycle l) (inv_clock (inv_start h) l)
    rw [toNat_tcnt_clockCycle (inv_start h), clockCycle_period] at htcnt
    rw [toNat_delaycnt_clockCycle] at hdelaycnt
    refine ⟨htcnt.trans ?_, hdelaycnt.trans ?_⟩
    · rw [Nat.mod_add_mod, List.length_cons, Nat.add_assoc, Nat.add_comm 1]
      rfl
    · rw [Nat.sub_sub, Nat.add_comm 1]
      rfl

/-! ### A frame in flight -/

/-- Until TCNT wraps the frame in flight stays; in the cycle in which it wraps it takes one tick. -/
theorem inFlight_afterClocks (levels : List Level) {s : State} (h : RunInv s) (harmed : s.txArmed = true) :
    (levels.length < s.period.toNat - s.tcnt.toNat → (s.afterClocks levels).inFlight = s.inFlight) ∧
    (levels.length = s.period.toNat - s.tcnt.toNat →
      (s.afterClocks levels).tcnt = 0 ∧ (s.afterClocks levels).inFlight = s.tick.inFlight) := by
  induction levels generalizing s with
  | nil =>
    have hbelow := h.tcntBelowPeriod
    exact ⟨fun _ => rfl, fun hlen => absurd hlen (by simp; omega)⟩
  | cons l levels ih =>
    have hbelow := h.tcntBelowPeriod
    have hlast := tcnt_eq_last_iff h.toEngineInv
    rw [afterClocks_cons, List.length_cons]
    by_cases hend : s.tcnt = s.period - 1
    · have hgie := gie_of_txArmed h harmed
      have htick : (s.start.clockCycle l).inFlight = s.tick.inFlight :=
        (inFlight_clockCycle_tick (s := s.start) hgie harmed hend).trans (inFlight_tick_congr rfl)
      have hlast := hlast.mp hend
      refine ⟨fun hlen => absurd hlen (by omega), fun hlen => ?_⟩
      rw [List.length_eq_zero_iff.mp (show levels.length = 0 by omega), afterClocks_nil, clockCycle_tcnt]
      exact ⟨if_pos hend, htick⟩
    · have hquiet := inFlight_clockCycle_quiet (s := s.start) (l := l) h.flagsClear.1 fun hx => hend hx.2
      have hrun := run_clock h l
      have htcnt : (s.start.clockCycle l).tcnt.toNat = s.tcnt.toNat + 1 := by
        rw [toNat_tcnt_clockCycle (inv_start h.toEngineInv)]
        have hne : s.tcnt.toNat + 1 ≠ s.period.toNat := fun e => hend (hlast.mpr e)
        exact Nat.mod_eq_of_lt (by simp; omega)
      have harmed' : (s.start.clockCycle l).txArmed = true := by
        simp only [inFlight, Prod.mk.injEq] at hquiet
        exact hquiet.2.1.trans harmed
      obtain ⟨hbefore, hat⟩ := ih hrun harmed'
      rw [htcnt, clockCycle_period] at hbefore hat
      refine ⟨fun hlen => (hbefore (by simp; omega)).trans hquiet, fun hlen => ?_⟩
      obtain ⟨hzero, htick⟩ := hat (by simp; omega)
      exact ⟨hzero, htick.trans (inFlight_tick_congr hquiet)⟩

/-- Settles O16: `inFlight_afterClocks`, with the tick read off its two cases. -/
theorem transmitTicksComeOncePerPeriod : Obligations.TransmitTicksComeOncePerPeriod := by
  intro levels s h harmed
  obtain ⟨hbefore, hat⟩ := inFlight_afterClocks levels h harmed
  refine ⟨s.afterClocks levels, runInstrs_clockTicks levels s, fun hlen => ?before, fun hlen => ?tick⟩
  case before =>
    have hkept := hbefore hlen
    simp only [inFlight, Prod.mk.injEq] at hkept
    obtain ⟨hreg, harmed', hout⟩ := hkept
    exact ⟨hreg, hout, harmed'.trans harmed⟩
  case tick =>
    obtain ⟨hzero, htick⟩ := hat hlen
    simp only [inFlight, Prod.mk.injEq] at htick
    obtain ⟨hreg, harmed', hout⟩ := htick
    rw [hreg, harmed', hout]
    obtain ⟨_, _, hframe⟩ := s.tick_frame
    refine ⟨hzero, by rw [hframe], fun hones => ?_, fun hmore => ?_⟩
    · rw [tick_of_ones hones]
      exact ⟨rfl, hones⟩
    · rw [tick_of_shift hmore]
      exact ⟨harmed, rfl⟩

end Sys2Proof.Machine
end

section
/-! PROOFS. The ticks of a whole frame (41_transmit.md R157). -/

namespace Sys2Proof.Machine

open State

/-- A shift of the frame: every bit moves down by one, and a one enters at bit 15 (R155). -/
theorem getLsbD_shift {x : Half} {k : Nat} (hk : k < 16) :
    ((x >>> 1) ||| 0x8000#16).getLsbD k = (decide (k = 15) || x.getLsbD (k + 1)) := by
  have hone : (0x8000#16).getLsbD k = decide (k = 15) := by
    revert k
    decide
  rw [BitVec.getLsbD_or, BitVec.getLsbD_ushiftRight, hone, Nat.add_comm 1, Bool.or_comm]

theorem exec_txTick_shift {s : State} (hgie : s.gie = true) (harmed : s.txArmed = true)
    (hmore : s.txreg ≠ 0xFFFF#16) : exec .txTick s = .next { s.start with
      ioOut := s.txreg.getLsbD 0, txreg := (s.txreg >>> 1) ||| 0x8000#16 } := by
  rw [exec_txTick hgie harmed, tick_of_shift (s := s.start) hmore]
  rfl

/-- A code with a 0 bit is not the terminal value. -/
theorem ne_ones_of_zero {x : Half} {h : Nat} (hh : h < 16) (hzero : x.getLsbD h = false) :
    x ≠ 0xFFFF#16 := by
  rintro rfl
  have hones : ∀ k, k < 16 → (0xFFFF#16).getLsbD k = true := by decide
  simp [hones h hh] at hzero

theorem eq_ones_of_bits {x : Half} (hones : ∀ k, k < 16 → x.getLsbD k = true) : x = 0xFFFF#16 := by
  have hall : ∀ k, k < 16 → (0xFFFF#16).getLsbD k = true := by decide
  exact BitVec.eq_of_getLsbD_eq fun k hk => (hones k hk).trans (hall k hk).symm

/-- Settles O23, by induction on the place of the highest 0 bit: a tick puts out bit 0 and leaves a code whose
highest 0 bit stands one place lower, and a code without one is the terminal value. -/
theorem frameTakesTicksToItsHighestZero : Obligations.FrameTakesTicksToItsHighestZero := by
  intro h
  induction h with
  | zero =>
    intro s hgie harmed _ hzero hones
    have hmore : s.txreg ≠ 0xFFFF#16 := ne_ones_of_zero (h := 0) (by decide) hzero
    have hfirst := exec_txTick_shift hgie harmed hmore
    have hterminal : (s.txreg >>> 1) ||| 0x8000#16 = 0xFFFF#16 := by
      refine eq_ones_of_bits fun k hk => ?_
      rw [getLsbD_shift hk]
      by_cases hk15 : k = 15
      · simp [hk15]
      · simp [hones (k + 1) (by omega) (by omega)]
    rw [hterminal] at hfirst
    refine ⟨fun j hj => ?ticks, ?last⟩
    case ticks =>
      obtain rfl : j = 0 := by omega
      exact ⟨_, runInstrs_cons hfirst, rfl, harmed, by simp⟩
    case last =>
      have hsecond := exec_txTick (s := { s.start with
        ioOut := s.txreg.getLsbD 0, txreg := 0xFFFF#16 }) hgie harmed
      rw [tick_of_ones rfl] at hsecond
      exact (runInstrs_cons hfirst).trans (runInstrs_cons hsecond)
  | succ h ih =>
    intro s hgie harmed hh hzero hones
    have hmore : s.txreg ≠ 0xFFFF#16 := ne_ones_of_zero hh hzero
    have hfirst := exec_txTick_shift hgie harmed hmore
    have hshift (k : Nat) (hk : k < 15) :
        ((s.txreg >>> 1) ||| 0x8000#16).getLsbD k = s.txreg.getLsbD (k + 1) := by
      rw [getLsbD_shift (by omega), decide_eq_false (by omega), Bool.false_or]
    have hzero' : ((s.txreg >>> 1) ||| 0x8000#16).getLsbD h = false := by
      rw [hshift h (by omega), hzero]
    have hones' (k : Nat) (hk : h < k) (hk16 : k < 16) :
        ((s.txreg >>> 1) ||| 0x8000#16).getLsbD k = true := by
      rw [getLsbD_shift hk16]
      by_cases hk15 : k = 15
      · simp [hk15]
      · simp [hones (k + 1) (by omega) (by omega)]
    obtain ⟨hticks, hlast⟩ := ih { s.start with
      ioOut := s.txreg.getLsbD 0, txreg := (s.txreg >>> 1) ||| 0x8000#16 }
      hgie harmed (by omega) hzero' hones'
    refine ⟨fun j hj => ?ticks, (runInstrs_cons hfirst).trans hlast⟩
    case ticks =>
      cases j with
      | zero =>
        have hmore' := ne_ones_of_zero (by omega) hzero'
        exact ⟨_, runInstrs_cons hfirst, rfl, harmed, iff_of_false hmore' (by omega)⟩
      | succ j =>
        obtain ⟨t, ht, hout, harmed', hend⟩ := hticks j (by omega)
        exact ⟨t, (runInstrs_cons hfirst).trans ht, hout.trans (hshift j (by omega)), harmed',
          hend.trans (by omega)⟩

end Sys2Proof.Machine
end

section
/-! PROOFS. Who may write what: the elements of the state, their owners, and that every instruction keeps to them (10_state.md R51). -/

namespace Sys2Proof.Machine

open State

/-! ### Elements and owners -/

/-- The elements of the state that have owners; the configuration and the turns have none. The last two are the
model's own fields (log 12, log 21). -/
inductive Element where
  | cfg | agenda | turns
  | mode | gie | period | tcnt | txf | delaycnt | ioPrev | capt
  | txreg | txArmed | ioOut | dir | rxArmed | rxacc | rxcnt | rxstate | rxcmp | icf | rxf
  | qbuf | qwr | qrd | qcount | cmdbuf | dstate | didx | rdphase
  | delayPhase | resets

namespace Element

/-- The activities that may write an element, as `Obligations.OnlyOwnersWrite` lists them. -/
def owners : Element → List Activity
  | cfg | agenda | turns => []
  | mode => [.modeSwitching, .resetting]
  | gie | period => [.configuring, .resetting]
  | tcnt | txf => [.configuring, .clocking, .resetting]
  | delaycnt => [.clocking, .delaying, .reading, .resetting]
  | ioPrev | capt => [.clocking, .resetting]
  | txreg => [.clocking, .ticking, .sending, .configuring, .resetting]
  | txArmed => [.clocking, .ticking, .sending, .resetting]
  | ioOut => [.clocking, .ticking, .sending, .takingLine, .resetting]
  | dir | rxArmed => [.sending, .takingLine, .listening, .reading, .resetting]
  | rxacc | rxcnt | rxstate =>
    [.clocking, .edging, .sampling, .sending, .takingLine, .listening, .reading, .resetting]
  | rxcmp => [.clocking, .edging, .resetting]
  | icf | rxf => [.configuring, .clocking, .sending, .takingLine, .listening, .reading, .resetting]
  | qbuf | qwr => [.clocking, .sampling, .putting, .resetting]
  | qrd => [.getting, .reading, .resetting]
  | qcount => [.clocking, .sampling, .putting, .getting, .reading, .resetting]
  | cmdbuf => [.storing, .resetting]
  | dstate | didx => [.dispatching, .resetting]
  | rdphase => [.reading, .resetting]
  | delayPhase => [.delaying, .resetting]
  | resets => [.resetting]

/-- The values of an element. -/
def Val : Element → Type
  | cfg => Config
  | agenda => List Turn
  | turns | qwr | qrd | qcount | resets => Nat
  | mode => Mode
  | gie | txf | ioPrev | txArmed | ioOut | rxArmed | icf | rxf => Bool
  | period | tcnt | capt | txreg | rxcmp | didx => Half
  | delaycnt => BitVec 32
  | dir => Dir
  | rxacc => BitVec 12
  | rxcnt => BitVec 4
  | rxstate => RxState
  | qbuf => List Half
  | cmdbuf => Memory
  | dstate => DState
  | rdphase => RdPhase
  | delayPhase => DelayPhase

/-- The value of an element in a state. -/
def value (s : State) : (e : Element) → e.Val
  | cfg => s.cfg
  | agenda => s.agenda
  | turns => s.turns
  | mode => s.mode
  | gie => s.gie
  | period => s.period
  | tcnt => s.tcnt
  | txf => s.txf
  | delaycnt => s.delaycnt
  | ioPrev => s.ioPrev
  | capt => s.capt
  | txreg => s.txreg
  | txArmed => s.txArmed
  | ioOut => s.ioOut
  | dir => s.dir
  | rxArmed => s.rxArmed
  | rxacc => s.rxacc
  | rxcnt => s.rxcnt
  | rxstate => s.rxstate
  | rxcmp => s.rxcmp
  | icf => s.icf
  | rxf => s.rxf
  | qbuf => s.qbuf
  | qwr => s.qwr
  | qrd => s.qrd
  | qcount => s.qcount
  | cmdbuf => s.cmdbuf
  | dstate => s.dstate
  | didx => s.didx
  | rdphase => s.rdphase
  | delayPhase => s.delayPhase
  | resets => s.resets

end Element

/-- From `s` to `t` nothing has changed but elements that one of these activities owns. -/
def Writes (acts : List Activity) (s t : State) : Prop :=
  ∀ e : Element, e.owners.any acts.contains = false → e.value t = e.value s

section
variable {acts more : List Activity} {s t u : State}

theorem Writes.trans (hst : Writes acts s t) (htu : Writes acts t u) : Writes acts s u :=
  fun e he => (htu e he).trans (hst e he)

theorem Writes.mono (h : Writes acts s t) (hsub : acts ⊆ more) : Writes more s t := by
  refine fun e he => h e ?_
  simp only [List.any_eq_false, List.contains_iff_mem] at he ⊢
  exact fun a ha hmem => he a ha (hsub hmem)

/-- The labels are no element. -/
theorem writes_labels (s : State) (r : Result) (c : Option Condition) :
    Writes acts s { s with result := r, raised := c } := fun e _ => by cases e <;> rfl

theorem writes_start (s : State) : Writes acts s s.start := writes_labels s _ _

theorem writes_blocked (s : State) : Writes acts s s.blocked := writes_labels s _ _

theorem writes_answer (s : State) (r : Result) : Writes acts s (s.answer r) := writes_labels s _ _

/-! ### What each shared operation writes -/

theorem writes_configure (s : State) (rate : Mode) : Writes [.configuring] s (s.configure rate) := by
  intro e h
  cases e
  case gie | period | tcnt | txf | icf | rxf | txreg => exact absurd h (by decide)
  all_goals rfl

theorem writes_mode (s : State) (m : Mode) : Writes [.modeSwitching] s { s with mode := m } := by
  intro e h
  cases e
  case mode => exact absurd h (by decide)
  all_goals rfl

theorem writes_delay (s : State) (n : BitVec 32) (p : DelayPhase) :
    Writes [.delaying] s { s with delaycnt := n, delayPhase := p } := by
  intro e h
  cases e
  case delaycnt | delayPhase => exact absurd h (by decide)
  all_goals rfl

theorem writes_clockCycle (s : State) (l : Level) : Writes [.clocking] s (s.clockCycle l) := by
  obtain ⟨_, _, _, _, _, _, _, _, _, _, _, _, _, _, _, hframe⟩ := s.clockCycle_frame l
  intro e h
  rw [hframe]
  cases e
  case rxf | rxacc | rxcnt | rxstate | qbuf | qwr | qcount | icf | capt | rxcmp | txf | ioOut | txArmed
      | txreg | ioPrev | tcnt | delaycnt => exact absurd h (by decide)
  all_goals rfl

theorem writes_enterTx (s : State) : Writes [.takingLine] s s.enterTx := by
  intro e h
  cases e
  case rxArmed | rxstate | rxacc | rxcnt | icf | rxf | ioOut | dir => exact absurd h (by decide)
  all_goals rfl

theorem writes_loadFrame (s : State) (code : Half) : Writes [.sending] s (s.loadFrame code) := by
  obtain ⟨_, _, _, _, _, _, _, hframe⟩ := s.loadFrame_frame code
  intro e h
  rw [hframe]
  cases e
  case rxArmed | rxstate | rxacc | rxcnt | icf | rxf | ioOut | dir | txreg | txArmed =>
    exact absurd h (by decide)
  all_goals rfl

theorem writes_tick (s : State) : Writes [.ticking] s s.tick := by
  obtain ⟨_, _, hframe⟩ := s.tick_frame
  intro e h
  rw [hframe]
  cases e
  case ioOut | txArmed | txreg => exact absurd h (by decide)
  all_goals rfl

theorem writes_edge (s : State) : Writes [.edging] s s.edge := by
  intro e h
  cases e
  case rxcmp | rxacc | rxcnt | rxstate => exact absurd h (by decide)
  all_goals rfl

theorem writes_sample (s : State) (l : Level) : Writes [.sampling] s (s.sample l) := by
  obtain ⟨_, _, _, _, _, _, _, hframe⟩ := s.sample_frame l
  intro e h
  rw [hframe]
  cases e
  case rxacc | rxcnt | rxstate | qbuf | qwr | qcount => exact absurd h (by decide)
  all_goals rfl

theorem writes_finalize (s : State) : Writes [.sampling] s s.finalize := by
  obtain ⟨_, _, _, _, hframe⟩ := s.finalize_frame
  intro e h
  rw [hframe]
  cases e
  case rxacc | rxcnt | rxstate | qbuf | qwr | qcount => exact absurd h (by decide)
  all_goals rfl

theorem writes_enterRx (s : State) : Writes [.listening] s s.enterRx := by
  intro e h
  cases e
  case dir | rxstate | rxacc | rxcnt | icf | rxf | rxArmed => exact absurd h (by decide)
  all_goals rfl

theorem writes_qPut (s : State) (v : Half) : Writes [.putting] s (s.qPut v).2 := by
  intro e h
  by_cases hfull : s.qcount = s.cfg.qcap
  · rw [qPut_of_full hfull]
  · rw [qPut_of_room hfull]
    cases e
    case qbuf | qwr | qcount => exact absurd h (by decide)
    all_goals rfl

theorem writes_qTake (s : State) : Writes [.getting] s s.qTake := by
  intro e h
  cases e
  case qrd | qcount => exact absurd h (by decide)
  all_goals rfl

theorem writes_dispatcher (s : State) (d : DState) (x : Half) :
    Writes [.dispatching] s { s with dstate := d, didx := x } := by
  intro e h
  cases e
  case dstate | didx => exact absurd h (by decide)
  all_goals rfl

theorem writes_stored (s : State) (m : Memory) (d : DState) (x : Half) :
    Writes [.storing, .dispatching] s { s with cmdbuf := m, dstate := d, didx := x } := by
  intro e h
  cases e
  case cmdbuf | dstate | didx => exact absurd h (by decide)
  all_goals rfl

theorem writes_resetRegisters (s : State) : Writes [.resetting] s s.resetRegisters := by
  intro e h
  cases e
  case cfg | agenda | turns => rfl
  all_goals exact absurd h (by decide)

theorem writes_selectAction (s : State) (ins : Byte) : Writes [.dispatching] s (s.selectAction ins) :=
  (writes_labels s _ _).trans (writes_dispatcher _ _ _)

/-! ### Steps made of them -/

theorem writes_runCommand {ins : Byte} (ht : s.runCommand ins = .next t) : Writes [.dispatching] s t :=
  next_of_guarded ht (fun _ => (writes_start s).trans (writes_selectAction _ ins)) fun _ => writes_blocked s

theorem writes_inState {d : DState} {f : State → StepOutcome} (ht : s.inState d f = .next t)
    (hf : f s = .next t → Writes acts s t) : Writes acts s t := by
  unfold inState at ht
  split at ht
  · exact hf ht
  · cases ht
    exact writes_blocked s

theorem writes_afterSend {code : Half} {go : State → State} (hsub : [.sending] ⊆ acts)
    (hgo : ∀ u, Writes acts u (go u)) (ht : s.afterSend code go = .next t) : Writes acts s t := by
  rcases afterSend_cases ht with ⟨-, rfl⟩ | ⟨-, rfl⟩
  · exact writes_blocked s
  · exact ((writes_start s).trans ((writes_loadFrame _ code).mono hsub)).trans (hgo _)

theorem writes_listens (h : Listens s t) : Writes [.reading] s t := by
  intro e he
  cases h with
  | armed =>
    cases e
    case rdphase => exact absurd he (by decide)
    all_goals rfl
  | turning =>
    cases e
    case delaycnt | rdphase => exact absurd he (by decide)
    all_goals rfl
  | turned =>
    cases e
    case dir | rxstate | rxacc | rxcnt | icf | rxf | rxArmed | rdphase => exact absurd he (by decide)
    all_goals rfl

/-- The micro-step of READ that takes a word. -/
theorem writes_readWord (s : State) : Writes [.reading] s { s.start.qTake with rdphase := .start } := by
  intro e he
  cases e
  case qrd | qcount | rdphase => exact absurd he (by decide)
  all_goals rfl

theorem writes_afterRead {go : Half → State → State} (hsub : [.reading] ⊆ acts)
    (hgo : ∀ v u, Writes acts u (go v u)) (ht : s.afterRead go = .next t) : Writes acts s t := by
  rcases afterRead_cases ht with rfl | ⟨hphase, harmed, rfl⟩ | ⟨hphase, hdeaf, hdrained, rfl⟩ |
    ⟨hphase, hover, hdrained, rfl⟩ | ⟨-, -, rfl⟩
  · exact writes_blocked s
  · exact (writes_listens (.armed hphase harmed)).mono hsub
  · exact (writes_listens (.turning hphase hdeaf hdrained)).mono hsub
  · exact (writes_listens (.turned hphase hover hdrained)).mono hsub
  · exact ((writes_readWord s).mono hsub).trans (hgo _ _)

/-! ### Every instruction -/

/-- Every instruction writes only what its activities own. -/
theorem writes_exec {i : Instr} (ht : exec i s = .next t) : Writes (activities i) s t := by
  have hstart {acts : List Activity} : Writes acts s s.start := writes_start s
  have hblocked {acts : List Activity} : Writes acts s s.blocked := writes_blocked s
  cases i with
  | serial p1 p2 len => exact writes_runCommand ht
  | seed p1 p2 len => exact writes_runCommand ht
  | auth p1 p2 len => exact writes_runCommand ht
  | msg p1 p2 len => exact writes_runCommand ht
  | mbox p1 p2 len => exact writes_runCommand ht
  | cw p1 p2 len => exact writes_runCommand ht
  | unknown ins p1 p2 len =>
    rw [exec, execUnknown] at ht
    split at ht
    · cases ht; exact hblocked
    · exact writes_runCommand ht
  | configure rate => cases ht; exact hstart.trans (writes_configure _ rate)
  | clkTick l => cases ht; exact hstart.trans (writes_clockCycle _ l)
  | delay n =>
    rw [exec, execDelay] at ht
    split at ht
    · cases ht; exact hstart.trans (writes_delay _ _ _)
    · exact next_of_guarded ht (fun _ => hstart.trans (writes_delay _ s.delaycnt _)) fun _ => hblocked
  | encode v => cases ht; exact writes_labels s _ _
  | send code => exact writes_afterSend (List.Subset.refl _) (fun u _ _ => rfl) ht
  | enterTx => exact next_of_guarded ht (fun _ => hstart.trans (writes_enterTx _)) fun _ => hblocked
  | sendByte b => exact writes_afterSend (List.Subset.refl _) (fun u _ _ => rfl) ht
  | txTick => exact next_of_guarded ht (fun _ => hstart.trans (writes_tick _)) fun _ => hblocked
  | rxEdge => exact next_of_guarded ht (fun _ => hstart.trans (writes_edge _)) fun _ => hblocked
  | rxSample l => exact next_of_guarded ht (fun _ => hstart.trans (writes_sample _ l)) fun _ => hblocked
  | rxFinalize => cases ht; exact hstart.trans (writes_finalize _)
  | decode acc => cases ht; exact writes_labels s _ _
  | enterRx => exact next_of_guarded ht (fun _ => hblocked) fun _ => hstart.trans (writes_enterRx _)
  | read => exact writes_afterRead (List.Subset.refl _) (fun v u => writes_answer u (.value v)) ht
  | qPut v => cases ht; exact (hstart.trans (writes_qPut _ v)).trans (writes_answer _ _)
  | qGetWait =>
    refine next_of_guarded ht (fun _ => hblocked) fun _ => ?_
    exact (hstart.trans (writes_qTake _)).trans (writes_answer _ _)
  | qGetNowait =>
    refine next_of_guarded ht (fun _ => hstart.trans (writes_answer _ _)) fun _ => ?_
    exact (hstart.trans (writes_qTake _)).trans (writes_answer _ _)
  | boot =>
    refine next_of_guarded ht (fun _ => ?_) fun _ => hblocked
    exact (hstart.trans ((writes_configure _ .handshake).mono (by decide))).trans
      ((writes_dispatcher _ _ _).mono (by decide))
  | atrTx =>
    exact writes_inState ht (writes_afterSend (by decide) fun u =>
      (writes_dispatcher u _ _).mono (by decide))
  | atrDrain =>
    rw [exec, execAtrDrain] at ht
    refine writes_inState ht fun hf => next_of_guarded hf (fun _ => hblocked) fun _ => ?_
    exact hstart.trans (writes_dispatcher _ _ s.didx)
  | modeSwitch =>
    refine next_of_guarded ht (fun _ => ?_) fun _ => hblocked
    have hmode := hstart.trans ((writes_mode s.start .operating).mono
      (show _ ⊆ activities .modeSwitch by decide))
    exact (hmode.trans ((writes_configure _ .operating).mono (by decide))).trans
      ((writes_dispatcher _ _ s.didx).mono (by decide))
  | idle =>
    refine writes_inState ht (writes_afterRead (by decide) fun v u => ?_)
    split
    · exact (writes_stored u _ _ _).mono (by decide)
    · exact fun _ _ => rfl
  | header =>
    exact writes_inState ht (writes_afterRead (by decide) fun v u =>
      (writes_stored u _ _ _).mono (by decide))
  | dispatch =>
    exact next_of_guarded ht (fun _ => hstart.trans (writes_selectAction _ _)) fun _ => hblocked
  | bodyTx =>
    refine writes_inState ht (writes_afterSend (by decide) fun u => ?_)
    split
    · exact (writes_dispatcher u _ _).mono (by decide)
    · exact (writes_dispatcher u u.dstate _).mono (by decide)
  | cwEcho =>
    exact writes_inState ht (writes_afterSend (by decide) fun u =>
      (writes_dispatcher u _ _).mono (by decide))
  | cwRx =>
    refine writes_inState ht (writes_afterRead (by decide) fun v u => ?_)
    dsimp only
    split
    · exact (writes_stored u _ _ _).mono (by decide)
    · exact (writes_stored u _ u.dstate _).mono (by decide)
  | trailerTx =>
    exact writes_inState ht (writes_afterSend (by decide) fun u =>
      (writes_dispatcher u _ _).mono (by decide))
  | clear =>
    refine next_of_guarded ht (fun _ => ?_) fun _ => hblocked
    exact hstart.trans ((writes_stored s.start [] _ _).mono (by decide))
  | reset => cases ht; exact writes_resetRegisters s

end

/-- Settles O57: `writes_exec`, element by element. -/
theorem onlyOwnersWrite : Obligations.OnlyOwnersWrite := by
  intro i s t ht
  have h := writes_exec ht
  exact ⟨h .cfg rfl, h .agenda rfl, h .turns rfl, h .mode, fun o => ⟨h .gie o, h .period o⟩,
    fun o => ⟨h .tcnt o, h .txf o⟩, h .delaycnt, fun o => ⟨h .ioPrev o, h .capt o⟩, h .txreg, h .txArmed,
    h .ioOut, fun o => ⟨h .dir o, h .rxArmed o⟩, fun o => ⟨h .rxacc o, h .rxcnt o, h .rxstate o⟩, h .rxcmp,
    fun o => ⟨h .icf o, h .rxf o⟩, fun o => ⟨h .qbuf o, h .qwr o⟩, h .qrd, h .qcount, h .cmdbuf,
    fun o => ⟨h .dstate o, h .didx o⟩, h .rdphase⟩

end Sys2Proof.Machine
end

section
/-! PROOFS. DELAY's two micro-steps, and the foreground it holds between them (40_timing_baud.md R138; log 12). -/

namespace Sys2Proof.Machine

open State

theorem exec_delay_start {s : State} (h : s.delayPhase = .start) (n : BitVec 32) :
    exec (.delay n) s = .next { s.start with delaycnt := n, delayPhase := .wait n } := by
  rw [exec, execDelay, h]

theorem exec_delay_wait {s : State} {m : BitVec 32} (h : s.delayPhase = .wait m) (n : BitVec 32) :
    exec (.delay n) s =
      if m = n ∧ s.delaycnt = 0 then .next { s.start with delayPhase := .start } else .next s.blocked := by
  rw [exec, execDelay, h]

/-! ### One step while a DELAY is in progress -/

/-- What the foreground owns, and a DELAY in progress therefore keeps. -/
def State.foregroundPart (s : State) :=
  (s.mode, s.gie, s.dir, s.period, s.rxArmed, s.qrd, s.cmdbuf, s.dstate, s.didx, s.rdphase)

/-- A DELAY in progress lets no other foreground operation run. -/
theorem fetch_while_delaying {s u : State} {n : BitVec 32} {i : Instr} (hphase : s.delayPhase = .wait n)
    (hfetch : s.fetch = .instr i u) : foreground i = false ∨ i = .delay n := by
  obtain ⟨_, _, hturn⟩ := s.takeTurn_frame
  have hphase' : s.takeTurn.2.delayPhase = .wait n := by rw [hturn]; exact hphase
  rw [fetch] at hfetch
  cases hwhose : s.takeTurn.1 with
  | agent a =>
    rw [hwhose] at hfetch
    cases a with
    | clock l => cases hfetch; exact .inl rfl
    | reset => cases hfetch; exact .inl rfl
    | dispatcher =>
      rw [fetchTurn_agent (a := .dispatcher) (dispatcherInstr_wait hphase')] at hfetch
      cases hfetch
      exact .inr rfl
  | call bytes =>
    rw [hwhose] at hfetch
    cases hdecode : decode s.takeTurn.2.cfg bytes with
    | error e => simp [fetchTurn, hdecode] at hfetch
    | ok p =>
      rw [fetchTurn_call (i := p.1) (rest := p.2) hdecode] at hfetch
      split at hfetch
      · cases hfetch
      next hfree =>
        cases hfetch
        by_cases hfg : foreground p.1 = true
        · rw [held_wait hphase' hfg] at hfree
          exact .inr (by simpa using hfree)
        · exact .inl (Bool.eq_false_iff.mpr hfg)

/-- Outside the foreground there are the clock, reset, and operations of the engines and the queue. -/
theorem background_cases {i : Instr} (h : foreground i = false) :
    (∃ l, i = .clkTick l) ∨ i = .reset ∨ activities i ⊆ [.ticking, .edging, .sampling, .putting] := by
  cases i
  case clkTick l => exact .inl ⟨l, rfl⟩
  case reset => exact .inr (.inl rfl)
  case encode | txTick | rxEdge | rxSample | rxFinalize | decode | qPut => exact .inr (.inr (by simp [activities]))
  all_goals cases h

theorem ticks_of_fetch {s u : State} {l : Level} (h : s.fetch = .instr (.clkTick l) u) : s.ticks = true := by
  rw [ticks, h]

theorem ticks_eq_false {s : State} (h : ∀ l u, s.fetch ≠ .instr (.clkTick l) u) : s.ticks = false := by
  unfold ticks
  split
  next hfetch => exact absurd hfetch (h _ _)
  next => rfl

/-- A step from `s` to `t` has left the DELAY in progress, with DELAYCNT `k` lower. -/
structure HeldOver (k : Nat) (s t : State) : Prop where
  resets : t.resets = s.resets
  delayPhase : t.delayPhase = s.delayPhase
  delaycnt : t.delaycnt.toNat = s.delaycnt.toNat - k
  foreground : t.foregroundPart = s.foregroundPart

theorem heldOver_background {s t : State} {i : Instr}
    (hacts : activities i ⊆ [.ticking, .edging, .sampling, .putting]) (ht : exec i s = .next t) :
    HeldOver 0 s t := by
  have h := (writes_exec ht).mono hacts
  have hcount : t.delaycnt = s.delaycnt := h .delaycnt rfl
  refine ⟨h .resets rfl, h .delayPhase rfl, congrArg _ hcount, ?_⟩
  simp only [foregroundPart, Prod.mk.injEq]
  exact ⟨h .mode rfl, h .gie rfl, h .dir rfl, h .period rfl, h .rxArmed rfl, h .qrd rfl, h .cmdbuf rfl,
    h .dstate rfl, h .didx rfl, h .rdphase rfl⟩

theorem heldOver_clock (s : State) (l : Level) : HeldOver 1 s (s.start.clockCycle l) := by
  have h := (writes_start s).trans (writes_clockCycle s.start l)
  refine ⟨h .resets rfl, h .delayPhase rfl, toNat_delaycnt_clockCycle s.start l, ?_⟩
  simp only [foregroundPart, Prod.mk.injEq]
  exact ⟨h .mode rfl, h .gie rfl, h .dir rfl, h .period rfl, h .rxArmed rfl, h .qrd rfl, h .cmdbuf rfl,
    h .dstate rfl, h .didx rfl, h .rdphase rfl⟩

theorem heldOver_turn {k : Nat} {s t : State} (h : HeldOver k s.takeTurn.2 t) : HeldOver k s t := by
  obtain ⟨_, _, hturn⟩ := s.takeTurn_frame
  rw [hturn] at h
  exact ⟨h.resets, h.delayPhase, h.delaycnt, h.foreground⟩

/-- While a DELAY counts, a step is a RESET, or leaves it in progress and counts a CLK cycle. -/
theorem step_while_delaying {s t : State} {n : BitVec 32} (hphase : s.delayPhase = .wait n)
    (hcounting : s.delaycnt ≠ 0) (ht : step s = .next t) :
    s.resets < t.resets ∨ HeldOver (cond s.ticks 1 0) s t := by
  have hblocked (u : State) : HeldOver 0 u u.blocked := ⟨rfl, rfl, rfl, rfl⟩
  obtain ⟨-, ⟨i, u, hfetch, hexec⟩ | ⟨hheld, rfl⟩⟩ := step_cases ht
  · obtain ⟨_, _, hturn⟩ := s.takeTurn_frame
    obtain rfl : u = s.takeTurn.2 := fetchTurn_state hfetch
    have hno (hi : ∀ l, i ≠ .clkTick l) : s.ticks = false := ticks_eq_false fun l u h => by
      rw [hfetch] at h
      cases h
      exact hi l rfl
    rcases fetch_while_delaying hphase hfetch with hback | rfl
    · rcases background_cases hback with ⟨l, rfl⟩ | rfl | hacts
      · cases hexec
        rw [ticks_of_fetch hfetch]
        exact .inr (heldOver_turn (heldOver_clock _ l))
      · cases hexec
        rw [hturn]
        exact .inl (Nat.lt_succ_self _)
      · have hi (l : Level) : i ≠ .clkTick l := by
          rintro rfl
          exact absurd hacts (show ¬ [Activity.clocking] ⊆ _ by decide)
        rw [hno hi]
        exact .inr (heldOver_turn (heldOver_background hacts hexec))
    · rw [hno fun l h => by cases h]
      have hwait : s.takeTurn.2.delayPhase = .wait n := by rw [hturn]; exact hphase
      rw [exec_delay_wait hwait, if_neg (by rw [hturn]; exact fun h => hcounting h.2)] at hexec
      cases hexec
      exact .inr (heldOver_turn (hblocked _))
  · rw [ticks_eq_false fun l u h => by rw [hheld] at h; cases h]
    exact .inr (heldOver_turn (hblocked _))

/-! ### A run of steps -/

theorem countedRun_succ {k c : Nat} {s t : State} (h : countedRun (k + 1) s = some (c, t)) :
    ∃ u d, step s = .next u ∧ countedRun k u = some (d, t) ∧ c = d + cond s.ticks 1 0 := by
  rw [countedRun] at h
  split at h
  next u hu =>
    obtain ⟨⟨d, v⟩, hrun, heq⟩ := Option.map_eq_some_iff.mp h
    cases heq
    exact ⟨u, d, hu, hrun, rfl⟩
  · cases h
  · cases h

/-- Only RESET counts RESETs. -/
theorem resets_exec {i : Instr} {s t : State} (ht : exec i s = .next t) : s.resets ≤ t.resets := by
  by_cases hi : i = .reset
  · subst hi
    cases ht
    exact Nat.le_succ _
  · have hown : performs i [.resetting] = false := by
      cases i
      case reset => exact absurd rfl hi
      all_goals rfl
    exact Nat.le_of_eq (writes_exec ht .resets hown).symm

theorem resets_step {s t : State} (ht : step s = .next t) : s.resets ≤ t.resets := by
  obtain ⟨_, _, hturn⟩ := s.takeTurn_frame
  obtain ⟨-, ⟨i, u, hfetch, hexec⟩ | ⟨-, rfl⟩⟩ := step_cases ht
  · have hle := resets_exec hexec
    rwa [fetchTurn_state hfetch, hturn] at hle
  · rw [hturn]
    exact Nat.le_refl _

theorem resets_countedRun {k c : Nat} {s t : State} (h : countedRun k s = some (c, t)) :
    s.resets ≤ t.resets := by
  induction k generalizing s c with
  | zero => cases h; exact Nat.le_refl _
  | succ k ih =>
    obtain ⟨u, d, hu, hrun, -⟩ := countedRun_succ h
    exact Nat.le_trans (resets_step hu) (ih hrun)

/-- Without a RESET, a DELAY is in progress until DELAYCNT has counted the CLK cycles down to 0. -/
theorem heldOver_countedRun {k c : Nat} {n : BitVec 32} {s t : State} (hphase : s.delayPhase = .wait n)
    (hrun : countedRun k s = some (c, t)) (hresets : t.resets = s.resets) (hc : c < s.delaycnt.toNat) :
    HeldOver c s t := by
  induction k generalizing s c with
  | zero => cases hrun; exact ⟨rfl, rfl, rfl, rfl⟩
  | succ k ih =>
    obtain ⟨u, d, hu, hrest, rfl⟩ := countedRun_succ hrun
    have hcounting : s.delaycnt ≠ 0 := by
      rintro hzero
      simp [hzero] at hc
    rcases step_while_delaying hphase hcounting hu with hreset | hstep
    · have := resets_countedRun hrest
      omega
    · have hcount := hstep.delaycnt
      have hrest := ih (hstep.delayPhase.trans hphase) hrest (hresets.trans hstep.resets.symm) (by omega)
      exact ⟨hresets, hrest.delayPhase.trans hstep.delayPhase, by rw [hrest.delaycnt]; omega,
        hrest.foreground.trans hstep.foreground⟩

/-- Settles O14: the two micro-steps are `execDelay`'s, and between them `heldOver_countedRun` says what is
kept. -/
theorem delayHasTwoMicroSteps : Obligations.DelayHasTwoMicroSteps := by
  intro n s
  refine ⟨fun hstart => exec_delay_start hstart n, fun hwait hover => ?second, fun m hwait hnot => ?blocked,
    fun u k c t hstart hu hrun hresets hc => ?held⟩
  case second => rw [exec_delay_wait hwait, if_pos ⟨rfl, hover⟩]; rfl
  case blocked => rw [exec_delay_wait hwait, if_neg hnot]; rfl
  case held =>
    cases (exec_delay_start hstart n).symm.trans hu
    have h := heldOver_countedRun rfl hrun hresets hc
    have hpart := h.foreground
    simp only [foregroundPart, Prod.mk.injEq] at hpart
    exact ⟨h.delayPhase, h.delaycnt, hpart⟩

end Sys2Proof.Machine
end

section
/-! PROOFS. The samples of a whole frame reach the queue (42_receive.md R173, R175). -/

namespace Sys2Proof.Machine

open State

/-! ### The accumulator, sample by sample -/

/-- RXACC holds the first `n` bits of a code, the last of them at its top bit. -/
def Collected (code : Half) (n : Nat) (s : State) : Prop :=
  ∀ k, k < s.cfg.w + 3 →
    s.rxacc.getLsbD k = (decide (s.cfg.w + 3 ≤ k + n) && code.getLsbD (k + n - (s.cfg.w + 3)))

theorem collected_zero {s : State} (h : s.rxacc = 0) (code : Half) : Collected code 0 s := by
  intro k hk
  rw [h, decide_eq_false (by omega), Bool.false_and]
  exact BitVec.getLsbD_zero

/-- A shift moves the bits down by one, and the next bit of the code enters at the top. -/
theorem collected_shiftIn {s : State} {code : Half} {n : Nat} (h : Collected code n s) :
    Collected code (n + 1) (s.shiftIn (code.getLsbD n)) := by
  intro k hk
  change k < s.cfg.w + 3 at hk
  change _ = (decide (s.cfg.w + 3 ≤ k + (n + 1)) && code.getLsbD (k + (n + 1) - (s.cfg.w + 3)))
  rw [getLsbD_shiftIn]
  split
  next hlow => rw [h (k + 1) (by omega), Nat.add_right_comm, Nat.add_assoc k]
  next htop =>
    obtain rfl : k = s.cfg.w + 2 := by omega
    rw [decide_eq_true rfl, decide_eq_true (by omega), Bool.true_and, Bool.true_and]
    congr 1
    omega

/-- With all `w + 3` bits collected the image is valid and holds the value. -/
theorem decoded_of_collected {s : State} {w : Nat} (hw : s.cfg.w = w) (v : BitVec w)
    (h : Collected (frameEncode v) (w + 3) s) :
    accValid s.acc = true ∧ (accValue s.acc).setWidth 16 = v.setWidth 16 := by
  subst hw
  obtain ⟨hvalue, hvalid⟩ := decode_of_code s.cfg.w_le v s.acc fun k hk => by
    rw [acc, BitVec.getLsbD_setWidth, h k hk, decide_eq_true hk, decide_eq_true (by omega), Bool.true_and,
      Bool.true_and, Nat.add_sub_cancel]
  exact ⟨hvalid, by rw [hvalue]⟩

/-! ### A frame half taken -/

/-- Since `s` the engine has taken the first `n` bits of a code as samples, and is still in the frame. -/
structure Sampling (s : State) (code : Half) (n : Nat) (u : State) : Prop where
  inv : EngineInv u
  cfg : u.cfg = s.cfg
  gie : u.gie = true
  rxArmed : u.rxArmed = true
  rxstate : u.rxstate = .sample
  rxcnt : u.rxcnt.toNat = n
  collected : Collected code n u
  queueView : u.queueView = s.queueView
  qcount : u.qcount = s.qcount

/-- Where a frame whose value is `v` has been delivered since `s`. -/
structure Delivered (s : State) (v : Half) (t : State) : Prop where
  queueView : t.queueView = s.queueView ++ [v]
  rxstate : t.rxstate = .waitEdge
  rxacc : t.rxacc = 0
  rxcnt : t.rxcnt = 0
  rxArmed : t.rxArmed = true
  raised : t.raised = none

section
variable {s u : State} {code : Half} {n : Nat} (h : Sampling s code n u)
include h

theorem sampling_start : Sampling s code n u.start :=
  ⟨inv_start h.inv, h.cfg, h.gie, h.rxArmed, h.rxstate, h.rxcnt, h.collected, h.queueView, h.qcount⟩

theorem sample_more_of_sampling (hmore : n < s.cfg.w + 2) (l : Level) : u.sample l = u.shiftIn l := by
  refine sample_of_more fun hlast => ?_
  have hlast := (rxcnt_next_iff u).mp hlast
  rw [h.rxcnt, h.cfg] at hlast
  omega

theorem sampling_sample (hmore : n < s.cfg.w + 2) :
    Sampling s code (n + 1) (u.sample (code.getLsbD n)) := by
  have hinv := inv_sample h.inv h.rxArmed h.rxstate (code.getLsbD n)
  rw [sample_more_of_sampling h hmore] at hinv ⊢
  have hcnt : (u.rxcnt + 1).toNat = n + 1 := by
    have hw := s.cfg.w_le
    rw [BitVec.toNat_add, h.rxcnt]
    exact Nat.mod_eq_of_lt (by simp; omega)
  exact ⟨hinv, h.cfg, h.gie, h.rxArmed, h.rxstate, hcnt, collected_shiftIn h.collected, h.queueView, h.qcount⟩

end

/-- The last sample delivers the value. -/
theorem delivered_sample {s u : State} {w : Nat} (hw : s.cfg.w = w) {v : BitVec w}
    (h : Sampling s (frameEncode v) (w + 2) u) (hroom : s.qcount < s.cfg.qcap) :
    Delivered s (v.setWidth 16) (u.start.sample ((frameEncode v).getLsbD (w + 2))) := by
  have hlast : (u.start.rxcnt + 1).toNat = u.start.cfg.nFrame := (rxcnt_next_iff u.start).mpr (by
    rw [start_rxcnt, h.rxcnt, start_cfg, h.cfg, hw])
  have hroom : u.qcount < u.cfg.qcap := by rw [h.qcount, h.cfg]; exact hroom
  obtain ⟨hvalid, hvalue⟩ := decoded_of_collected (s := u.start.shiftIn _) ((congrArg Config.w h.cfg).trans hw) v
    (collected_shiftIn (sampling_start h).collected)
  have hput := queueView_put (v.setWidth 16) h.inv.queueLength hroom h.inv.queueRead h.inv.queueWrite
  rw [qPut_of_room (Nat.ne_of_lt hroom), h.queueView] at hput
  rw [sample_of_last hlast, finalize_of_valid hvalid, hvalue,
    deliver_of_room (s := u.start.shiftIn _) (Nat.ne_of_lt hroom)]
  exact ⟨hput, rfl, rfl, rfl, h.rxArmed, rfl⟩

/-! ### Samples run one after the other -/

theorem codeLevels_eq_append (w : Nat) (code : Half) :
    codeLevels w code = (List.range (w + 2)).map code.getLsbD ++ [code.getLsbD (w + 2)] := by
  rw [codeLevels, List.range_succ, List.map_append, List.map_singleton]

theorem sampling_samples {s : State} {code : Half} (h : Sampling s code 0 s) (n : Nat) (hn : n ≤ s.cfg.w + 2) :
    ∃ u, runInstrs (((List.range n).map code.getLsbD).map .rxSample) s = some u ∧ Sampling s code n u := by
  induction n with
  | zero => exact ⟨s, rfl, h⟩
  | succ n ih =>
    obtain ⟨u, hrun, hu⟩ := ih (by omega)
    refine ⟨_, ?_, sampling_sample (sampling_start hu) (by omega)⟩
    rw [List.range_succ, List.map_append, List.map_append, runInstrs_append _ hrun]
    exact runInstrs_cons (exec_rxSample hu.gie hu.rxArmed hu.rxstate _)

/-- Settles O31: the first `W + 2` samples collect the code, and the last delivers its value. -/
theorem sampledFrameReachesTheQueue : Obligations.SampledFrameReachesTheQueue := by
  intro s v hinv hgie harmed hsampling hacc hcnt hroom
  have hbegin : Sampling s (frameEncode v) 0 s :=
    ⟨hinv, rfl, hgie, harmed, hsampling, by rw [hcnt]; rfl, collected_zero hacc _, rfl, rfl⟩
  obtain ⟨u, hrun, hu⟩ := sampling_samples hbegin (s.cfg.w + 2) (Nat.le_refl _)
  have hdone := delivered_sample rfl hu hroom
  refine ⟨_, ?_, hdone.queueView, hdone.rxstate, hdone.rxacc, hdone.rxcnt, hdone.rxArmed, hdone.raised⟩
  rw [codeLevels_eq_append, List.map_append, runInstrs_append _ hrun]
  exact runInstrs_cons (exec_rxSample hu.gie hu.rxArmed hu.rxstate _)

end Sys2Proof.Machine
end

section
/-! PROOFS. A frame on the line, cycle by cycle, reaches the queue (40_timing_baud.md R136). -/

namespace Sys2Proof.Machine

open State

/-! ### The waveform -/

/-- In a waveform of bit periods of `p` cycles, cycle `j` carries bit `j / p`. -/
theorem stretched_range (p m : Nat) (f : Nat → Level) :
    stretched p ((List.range m).map f) = (List.range (m * p)).map fun j => f (j / p) := by
  induction m with
  | zero => simp [stretched]
  | succ m ih =>
    have hperiod : List.replicate p (f m) = (List.range p).map fun j => f ((m * p + j) / p) := by
      refine (List.eq_replicate_iff.mpr ⟨by simp, fun l hl => ?_⟩).symm
      obtain ⟨j, hj, rfl⟩ := List.mem_map.mp hl
      have hj := List.mem_range.mp hj
      rw [Nat.mul_comm, Nat.mul_add_div (by omega), Nat.div_eq_of_lt hj, Nat.add_zero]
    have happend : stretched p ((List.range (m + 1)).map f) =
        stretched p ((List.range m).map f) ++ List.replicate p (f m) := by
      simp [stretched, List.range_succ]
    rw [happend, ih, hperiod, Nat.succ_mul, List.range_add, List.map_append, List.map_map]
    rfl

/-- The level of cycle `j` of a code's frame. -/
def frameWave (p : Nat) (code : Half) (j : Nat) : Level := code.getLsbD (j / p)

theorem frameWave_middle {p : Nat} (hp : 2 ≤ p) (code : Half) (n : Nat) :
    frameWave p code (p / 2 + n * p) = code.getLsbD n := by
  rw [frameWave, Nat.add_mul_div_right _ _ (by omega), Nat.div_eq_of_lt (by omega), Nat.zero_add]

theorem take_stretched {p w c : Nat} (code : Half) (hc : c ≤ (w + 3) * p) :
    (stretched p (codeLevels w code)).take c = (List.range c).map (frameWave p code) := by
  rw [codeLevels, stretched_range, ← List.map_take, List.take_range, Nat.min_eq_left hc]
  rfl

/-- The state after `c` CLK cycles of a waveform. -/
def State.afterWave (wave : Nat → Level) (s : State) (c : Nat) : State :=
  s.afterClocks ((List.range c).map wave)

theorem afterWave_succ (wave : Nat → Level) (s : State) (c : Nat) :
    s.afterWave wave (c + 1) = (s.afterWave wave c).start.clockCycle (wave c) := by
  rw [afterWave, List.range_succ, List.map_append, afterClocks_append]
  rfl

/-! ### A frame half taken, and the cycles to its next sample -/

/-- Since `s` the engine has taken `n` bits of a code, and takes the next one in `d` CLK cycles. -/
structure Awaiting (s : State) (code : Half) (n d : Nat) (u : State) : Prop where
  sampling : Sampling s code n u
  run : RunInv u
  period : u.period = s.period
  drained : u.txArmed = false
  distance : u.rxcmp.toNat = (u.tcnt.toNat + d) % u.period.toNat

theorem period_ge {s : State} (h : RunInv s) : 2 ≤ s.period.toNat :=
  h.periodByMode ▸ periodOf_ge h.cfgOk s.mode

section
variable {s u : State} {code : Half} {n : Nat}

theorem instant_of_awaiting (h : Awaiting s code n 0 u) : u.tcnt = u.rxcmp := by
  refine BitVec.eq_of_toNat_eq ?_
  rw [h.distance, Nat.add_zero, Nat.mod_eq_of_lt h.run.tcntBelowPeriod]

/-- A cycle before the instant of the next sample does the bookkeeping only, whatever its level. -/
theorem awaiting_quiet {d : Nat} (h : Awaiting s code n (d + 1) u) (hd : d + 1 < u.period.toNat) (l : Level) :
    Awaiting s code n d (u.start.clockCycle l) := by
  have hbelow := h.run.tcntBelowPeriod
  have hearly : u.tcnt ≠ u.rxcmp := fun e => by
    have hdist := h.distance
    rw [← e] at hdist
    rcases Nat.lt_or_ge (u.tcnt.toNat + (d + 1)) u.period.toNat with hlt | hge
    · rw [Nat.mod_eq_of_lt hlt] at hdist
      omega
    · rw [Nat.mod_eq_sub_mod hge, Nat.mod_eq_of_lt (by omega)] at hdist
      omega
  obtain ⟨htxf, hicf, hrxf⟩ := h.run.flagsClear
  have hcycle : u.start.clockCycle l = u.start.advance l :=
    clockCycle_quiet htxf hicf hrxf (sampleMatch_eq_false (s := u.start) fun hx => hearly hx.2.2)
      (edgeSeen_eq_false (s := u.start) fun hx => by simp [h.sampling.rxstate] at hx)
      (transmitMatch_eq_false (s := u.start) fun hx => by simp [h.drained] at hx)
  have hrun := run_clock h.run l
  have htcnt := toNat_tcnt_clockCycle (inv_start h.run.toEngineInv) l
  rw [hcycle] at hrun htcnt ⊢
  have hs := h.sampling
  refine ⟨⟨hrun.toEngineInv, hs.cfg, hs.gie, hs.rxArmed, hs.rxstate, hs.rxcnt, hs.collected, hs.queueView,
    hs.qcount⟩, hrun, h.period, h.drained, ?distance⟩
  case distance =>
    rw [htcnt]
    refine h.distance.trans ?_
    rw [start_tcnt, start_period, Nat.add_comm d, ← Nat.add_assoc, ← Nat.mod_add_mod]
    rfl

/-- The cycle of a sample before the last one takes the next bit. -/
theorem awaiting_sample (h : Awaiting s code n 0 u) (hmore : n < s.cfg.w + 2) :
    Awaiting s code (n + 1) (u.period.toNat - 1) (u.start.clockCycle (code.getLsbD n)) := by
  have hs := sampling_start h.sampling
  have hnext := sampling_sample hs hmore
  have hinstant := instant_of_awaiting h
  have hlast : (u.start.rxcnt + 1).toNat ≠ u.start.cfg.nFrame := fun hx => by
    have hx := (rxcnt_next_iff u.start).mp hx
    rw [hs.rxcnt, hs.cfg] at hx
    omega
  have hcycle := clockCycle_sample (l := code.getLsbD n) hs.gie hs.rxArmed hs.rxstate hinstant h.drained
    (.inl hlast)
  have hrun := run_clock h.run (code.getLsbD n)
  have htcnt := toNat_tcnt_clockCycle (inv_start h.run.toEngineInv) (code.getLsbD n)
  have hbelow := h.run.tcntBelowPeriod
  rw [sample_more_of_sampling hs hmore] at hcycle hnext
  rw [hcycle] at hrun htcnt ⊢
  refine ⟨⟨hrun.toEngineInv, hnext.cfg, hnext.gie, hnext.rxArmed, hnext.rxstate, hnext.rxcnt,
    hnext.collected, hnext.queueView, hnext.qcount⟩, hrun, h.period, h.drained, ?distance⟩
  case distance =>
    rw [htcnt]
    change u.rxcmp.toNat = ((u.tcnt.toNat + 1) % u.period.toNat + (u.period.toNat - 1)) % u.period.toNat
    rw [Nat.mod_add_mod, Nat.add_assoc, Nat.add_sub_cancel' (by omega), Nat.add_mod_right,
      Nat.mod_eq_of_lt hbelow, hinstant]

end

/-- The cycle of the start edge opens a frame, to be sampled half a bit period later. -/
theorem awaiting_edge {s : State} (h : RunInv s) (harmed : s.rxArmed = true) (hwait : s.rxstate = .waitEdge)
    (hhigh : s.ioPrev = true) (code : Half) :
    Awaiting s code 0 (s.period.toNat / 2 - 1) (s.start.clockCycle false) := by
  have hgie : s.gie = true := by
    by_contra hmasked
    have hboot := h.maskedIsBoot.mp (Bool.eq_false_iff.mpr hmasked)
    simp [h.powerOnIsDeaf (by simp [poweringOn, hboot])] at harmed
  have hdrained : s.txArmed = false := by
    by_contra hbusy
    simp [h.sendingIsDeaf (h.armedIsSending (Bool.not_eq_false _ ▸ hbusy))] at harmed
  have hperiod := period_ge h
  have hrun := run_clock h false
  have htcnt := toNat_tcnt_clockCycle (inv_start h.toEngineInv) false
  rw [clockCycle_edge (s := s.start) hgie harmed hwait hhigh hdrained] at hrun htcnt ⊢
  refine ⟨⟨hrun.toEngineInv, rfl, hgie, harmed, rfl, rfl, collected_zero rfl code, rfl, rfl⟩, hrun, rfl,
    hdrained, ?distance⟩
  case distance =>
    rw [htcnt]
    change (sampleInstant s.tcnt s.period).toNat =
      ((s.tcnt.toNat + 1) % s.period.toNat + (s.period.toNat / 2 - 1)) % s.period.toNat
    have hfits := Nat.mod_lt (s.tcnt.toNat + s.period.toNat / 2) (show 0 < s.period.toNat by omega)
    rw [Nat.mod_add_mod, Nat.add_assoc, Nat.add_sub_cancel' (by omega), sampleInstant, BitVec.toNat_ofNat,
      Nat.mod_eq_of_lt (Nat.lt_trans hfits s.period.isLt)]

/-- The cycle of the last sample delivers the value: the stop bit is high, so no edge follows. -/
theorem delivered_clockCycle {s u : State} {w : Nat} (hw : s.cfg.w = w) {v : BitVec w}
    (h : Awaiting s (frameEncode v) (w + 2) 0 u) (hroom : s.qcount < s.cfg.qcap) :
    Delivered s (v.setWidth 16) (u.start.clockCycle ((frameEncode v).getLsbD (w + 2))) := by
  have hs := sampling_start h.sampling
  have hstop : (frameEncode v).getLsbD (w + 2) = true := by
    have := s.cfg.w_le
    exact getLsbD_frameEncode_stop v (Nat.le_refl _) (by omega)
  have hinstant := instant_of_awaiting h
  have hdone := delivered_sample hw h.sampling hroom
  rw [clockCycle_sample (s := u.start) hs.gie hs.rxArmed hs.rxstate hinstant h.drained
    (.inr ⟨h.run.flagsClear.2.1, .inr hstop⟩)]
  exact ⟨hdone.queueView, hdone.rxstate, hdone.rxacc, hdone.rxcnt, hdone.rxArmed, hdone.raised⟩

/-! ### The whole frame -/

section
variable {s : State} {code : Half} {wave : Nat → Level}

/-- The cycles between two samples. -/
theorem awaiting_afterWave {n c d : Nat} (h : Awaiting s code n d (s.afterWave wave c))
    (hd : d < s.period.toNat) : Awaiting s code n 0 (s.afterWave wave (c + d)) := by
  induction d generalizing c with
  | zero => exact h
  | succ d ih =>
    have hquiet := awaiting_quiet h (by rw [h.period]; exact hd) (wave c)
    rw [← afterWave_succ] at hquiet
    have hrest := ih hquiet (by omega)
    rwa [Nat.add_right_comm, Nat.add_assoc] at hrest

end

/-- Bit `n` is sampled in the middle of its period. -/
theorem awaiting_bit {s : State} {code : Half} (hperiod : 2 ≤ s.period.toNat)
    (hstart : Awaiting s code 0 (s.period.toNat / 2 - 1) (s.afterWave (frameWave s.period.toNat code) 1))
    (n : Nat) (hn : n ≤ s.cfg.w + 2) :
    Awaiting s code n 0
      (s.afterWave (frameWave s.period.toNat code) (s.period.toNat / 2 + n * s.period.toNat)) := by
  induction n with
  | zero =>
    have hfirst := awaiting_afterWave hstart (by omega)
    rw [Nat.add_sub_cancel' (by omega)] at hfirst
    rwa [Nat.zero_mul, Nat.add_zero]
  | succ n ih =>
    have hbit := ih (by omega)
    have hsample := awaiting_sample hbit (by omega)
    rw [← frameWave_middle hperiod code n, ← afterWave_succ, hbit.period] at hsample
    have hnext := awaiting_afterWave hsample (by omega)
    rwa [Nat.add_assoc, Nat.add_sub_cancel' (by omega), Nat.add_assoc, ← Nat.succ_mul] at hnext

/-- Settles O32: the start edge opens the frame, each bit is sampled in the middle of its period, and the last
sample delivers the value. -/
theorem frameOnTheLineReachesTheQueue : Obligations.FrameOnTheLineReachesTheQueue := by
  intro s v h harmed hwait hhigh hroom
  have hperiod := period_ge h
  have hstart : Awaiting s (frameEncode v) 0 (s.period.toNat / 2 - 1)
      (s.afterWave (frameWave s.period.toNat (frameEncode v)) 1) := by
    rw [afterWave_succ, frameWave, Nat.zero_div, getLsbD_frameEncode_start]
    exact awaiting_edge h harmed hwait hhigh _
  have hdone := delivered_clockCycle rfl (awaiting_bit hperiod hstart (s.cfg.w + 2) (Nat.le_refl _)) hroom
  rw [← frameWave_middle hperiod, ← afterWave_succ] at hdone
  refine ⟨_, ?_, hdone.queueView, hdone.rxstate, hdone.rxArmed, hdone.raised⟩
  rw [take_stretched _ (by rw [Nat.succ_mul (s.cfg.w + 2)]; omega)]
  exact runInstrs_clockTicks _ s

end Sys2Proof.Machine
end

section
/-! PROOFS. The header parameters never matter: two states that differ in CMDBUF behind its first two bytes only step alike (44_dispatcher.md R241). -/

namespace Sys2Proof.Machine

open State

/-! ### States that differ in the header parameters only -/

/-- Two canonical memories with the same class byte and the same instruction byte. -/
structure SameHeader (m m' : Memory) : Prop where
  wf : Memory.wf m = true
  wf' : Memory.wf m' = true
  classByte : Memory.read m' 0 = Memory.read m 0
  instructionByte : Memory.read m' 1 = Memory.read m 1

theorem sameHeader_refl {m : Memory} (h : Memory.wf m = true) : SameHeader m m := ⟨h, h, rfl, rfl⟩

theorem sameHeader_store {m m' : Memory} (h : SameHeader m m') (i : Nat) (b : Byte) :
    SameHeader (Memory.store m i b) (Memory.store m' i b) where
  wf := Memory.wf_store h.wf i b
  wf' := Memory.wf_store h.wf' i b
  classByte := by rw [Memory.read_store h.wf, Memory.read_store h.wf', h.classByte]
  instructionByte := by rw [Memory.read_store h.wf, Memory.read_store h.wf', h.instructionByte]

/-- The state with another CMDBUF. -/
def State.withBuffer (m : Memory) (s : State) : State := { s with cmdbuf := m }

/-- Two states that differ in the header parameters only. -/
def Alike (s s' : State) : Prop := ∃ m, s' = s.withBuffer m ∧ SameHeader s.cmdbuf m

/-- Two outcomes that differ in the header parameters only: next states that do, or the same stop. -/
def OutcomesAlike (o o' : StepOutcome) : Prop :=
  (∃ t t', o = .next t ∧ o' = .next t' ∧ Alike t t') ∨ (o = o' ∧ ∀ t, o ≠ .next t)

theorem alike_next {t t' : State} (h : Alike t t') : OutcomesAlike (.next t) (.next t') :=
  .inl ⟨t, t', rfl, rfl, h⟩

theorem alike_stuck : OutcomesAlike (.fault .stuck) (.fault .stuck) := .inr ⟨rfl, fun _ h => by cases h⟩

/-- An operation with a guard that does not read the header. -/
theorem alike_guarded {c c' : Prop} [Decidable c] [Decidable c'] {a a' b b' : State} (hc : c' ↔ c)
    (ha : Alike a a') (hb : Alike b b') :
    OutcomesAlike (if c then .next a else .next b) (if c' then .next a' else .next b') := by
  by_cases h : c
  · rw [if_pos h, if_pos (hc.mpr h)]
    exact alike_next ha
  · rw [if_neg h, if_neg (mt hc.mp h)]
    exact alike_next hb

theorem alike_blocked {s s' : State} (h : Alike s s') : Alike s.blocked s'.blocked := by
  obtain ⟨m, rfl, hm⟩ := h
  exact ⟨m, rfl, hm⟩

theorem alike_start {s s' : State} (h : Alike s s') : Alike s.start s'.start := by
  obtain ⟨m, rfl, hm⟩ := h
  exact ⟨m, rfl, hm⟩

/-! ### The engines do not read CMDBUF -/

namespace State

variable (s : State) (m : Memory)

theorem tick_withBuffer : (s.withBuffer m).tick = s.tick.withBuffer m := by
  by_cases hones : s.txreg = 0xFFFF#16
  · rw [tick_of_ones hones, tick_of_ones (s := s.withBuffer m) hones]
    rfl
  · rw [tick_of_shift hones, tick_of_shift (s := s.withBuffer m) hones]
    rfl

theorem deliver_withBuffer (v : Half) : (s.withBuffer m).deliver v = (s.deliver v).withBuffer m := by
  by_cases hfull : s.qcount = s.cfg.qcap
  · rw [deliver_of_full hfull, deliver_of_full (s := s.withBuffer m) hfull]
    rfl
  · rw [deliver_of_room hfull, deliver_of_room (s := s.withBuffer m) hfull]
    rfl

theorem finalize_withBuffer : (s.withBuffer m).finalize = s.finalize.withBuffer m := by
  cases hvalid : accValid s.acc
  · rw [finalize_of_invalid hvalid, finalize_of_invalid (s := s.withBuffer m) hvalid]
    rfl
  · rw [finalize_of_valid hvalid, finalize_of_valid (s := s.withBuffer m) hvalid, deliver_withBuffer]
    rfl

theorem sample_withBuffer (l : Level) : (s.withBuffer m).sample l = (s.sample l).withBuffer m := by
  by_cases hlast : (s.rxcnt + 1).toNat = s.cfg.nFrame
  · rw [sample_of_last hlast, sample_of_last (s := s.withBuffer m) hlast, ← finalize_withBuffer]
    rfl
  · rw [sample_of_more hlast, sample_of_more (s := s.withBuffer m) hlast]
    rfl

/-- The receive sample compare in one formula: RXF is raised by a match, and RX_SAMPLE takes it back. -/
theorem sampleCompare_eq (l : Level) : s.sampleCompare l =
    if ((s.rxf || s.sampleMatch) && s.sampleEnabled) = true then State.sample l { s with rxf := false }
    else { s with rxf := s.rxf || s.sampleMatch } := by
  unfold sampleCompare
  cases hmatch : s.sampleMatch with
  | false => rw [Bool.or_false]; rfl
  | true => rw [Bool.or_true]; rfl

theorem sampleCompare_withBuffer (l : Level) :
    (s.withBuffer m).sampleCompare l = (s.sampleCompare l).withBuffer m := by
  rw [sampleCompare_eq, sampleCompare_eq]
  by_cases hfires : ((s.rxf || s.sampleMatch) && s.sampleEnabled) = true
  · rw [if_pos hfires]
    exact (if_pos hfires).trans (sample_withBuffer { s with rxf := false } m l)
  · rw [if_neg hfires]
    exact if_neg hfires

/-- The start edge capture in one formula. -/
theorem edgeCapture_eq (l : Level) : s.edgeCapture l =
    if ((s.icf || s.edgeSeen l) && s.edgeEnabled) = true then
      State.edge { s with icf := false, capt := if s.edgeSeen l then s.tcnt else s.capt }
    else { s with icf := s.icf || s.edgeSeen l, capt := if s.edgeSeen l then s.tcnt else s.capt } := by
  unfold edgeCapture
  cases hseen : s.edgeSeen l with
  | false => rw [Bool.or_false]; rfl
  | true => rw [Bool.or_true]; rfl

theorem edgeCapture_withBuffer (l : Level) :
    (s.withBuffer m).edgeCapture l = (s.edgeCapture l).withBuffer m := by
  rw [edgeCapture_eq, edgeCapture_eq]
  by_cases hfires : ((s.icf || s.edgeSeen l) && s.edgeEnabled) = true
  · rw [if_pos hfires]
    exact if_pos hfires
  · rw [if_neg hfires]
    exact if_neg hfires

/-- The transmit compare in one formula. -/
theorem transmitCompare_eq : s.transmitCompare =
    if ((s.txf || s.transmitMatch) && s.tickEnabled) = true then State.tick { s with txf := false }
    else { s with txf := s.txf || s.transmitMatch } := by
  unfold transmitCompare
  cases hmatch : s.transmitMatch with
  | false => rw [Bool.or_false]; rfl
  | true => rw [Bool.or_true]; rfl

theorem transmitCompare_withBuffer : (s.withBuffer m).transmitCompare = s.transmitCompare.withBuffer m := by
  rw [transmitCompare_eq, transmitCompare_eq]
  by_cases hfires : ((s.txf || s.transmitMatch) && s.tickEnabled) = true
  · rw [if_pos hfires]
    exact (if_pos hfires).trans (tick_withBuffer { s with txf := false } m)
  · rw [if_neg hfires]
    exact if_neg hfires

theorem clockCycle_withBuffer (l : Level) : (s.withBuffer m).clockCycle l = (s.clockCycle l).withBuffer m := by
  rw [clockCycle, sampleCompare_withBuffer, edgeCapture_withBuffer, transmitCompare_withBuffer]
  rfl

theorem loadFrame_withBuffer (code : Half) :
    (s.withBuffer m).loadFrame code = (s.loadFrame code).withBuffer m := by
  cases hdir : s.dir with
  | tx =>
    rw [loadFrame_of_tx hdir, loadFrame_of_tx (s := s.withBuffer m) hdir]
    rfl
  | rx =>
    rw [loadFrame_of_rx hdir, loadFrame_of_rx (s := s.withBuffer m) hdir]
    rfl

end State

theorem alike_loadFrame {s s' : State} (h : Alike s s') (code : Half) :
    Alike (s.loadFrame code) (s'.loadFrame code) := by
  obtain ⟨m, rfl, hm⟩ := h
  exact ⟨m, s.loadFrame_withBuffer m code, by rwa [loadFrame_cmdbuf]⟩

/-! ### SEND and READ inside a step -/

/-- Two micro-steps of READ that differ in the header parameters only. -/
inductive ReadsAlike : ReadStep → ReadStep → Prop
  | waiting : ReadsAlike .waiting .waiting
  | moved {t t' : State} (h : Alike t t') : ReadsAlike (.moved t) (.moved t')
  | value (v : Half) {t t' : State} (h : Alike t t') : ReadsAlike (.value v t) (.value v t')
  | stuck : ReadsAlike .stuck .stuck

theorem readsAlike {s s' : State} (h : Alike s s') : ReadsAlike s.readStep s'.readStep := by
  obtain ⟨m, rfl, hm⟩ := h
  cases hphase : s.rdphase with
  | start =>
    cases harmed : s.rxArmed with
    | true =>
      rw [readStep_armed hphase harmed, readStep_armed (s := s.withBuffer m) hphase harmed]
      exact .moved ⟨m, rfl, hm⟩
    | false =>
      cases hbusy : s.txArmed with
      | true =>
        rw [readStep_busy hphase harmed hbusy, readStep_busy (s := s.withBuffer m) hphase harmed hbusy]
        exact .waiting
      | false =>
        rw [readStep_turn hphase harmed hbusy, readStep_turn (s := s.withBuffer m) hphase harmed hbusy]
        exact .moved ⟨m, rfl, hm⟩
  | delay =>
    by_cases hover : s.delaycnt = 0 ∧ s.txArmed = false
    · rw [readStep_listen hphase hover, readStep_listen (s := s.withBuffer m) hphase hover]
      exact .moved ⟨m, rfl, hm⟩
    · rw [readStep_delaying hphase hover, readStep_delaying (s := s.withBuffer m) hphase hover]
      exact .waiting
  | wait =>
    by_cases hempty : s.qcount = 0
    · rw [readStep_empty hphase hempty, readStep_empty (s := s.withBuffer m) hphase hempty]
      exact .waiting
    · rw [readStep_value hphase hempty, readStep_value (s := s.withBuffer m) hphase hempty]
      exact .value _ ⟨m, rfl, hm⟩
  | reserved =>
    rw [readStep_reserved hphase, readStep_reserved (s := s.withBuffer m) hphase]
    exact .stuck

theorem alike_afterRead {s s' : State} (h : Alike s s') {go : Half → State → State}
    (hgo : ∀ v u u', Alike u u' → Alike (go v u) (go v u')) :
    OutcomesAlike (s.afterRead go) (s'.afterRead go) := by
  have hread := readsAlike (alike_start h)
  unfold afterRead
  generalize s.start.readStep = r, s'.start.readStep = r' at hread
  cases hread with
  | waiting => exact alike_next (alike_blocked h)
  | moved hu => exact alike_next hu
  | value v hu => exact alike_next (hgo v _ _ hu)
  | stuck => exact alike_stuck

theorem alike_afterSend {s s' : State} (h : Alike s s') (code : Half) {go : State → State}
    (hgo : ∀ u u', Alike u u' → Alike (go u) (go u')) :
    OutcomesAlike (s.afterSend code go) (s'.afterSend code go) := by
  have hgone := hgo _ _ (alike_loadFrame (alike_start h) code)
  have hblocked := alike_blocked h
  obtain ⟨m, rfl, -⟩ := h
  exact alike_guarded (c := s.txBusy = true) (c' := (s.withBuffer m).txBusy = true) Iff.rfl hblocked hgone

/-! ### The dispatcher's steps -/

/-- A step that writes DSTATE and DIDX by what it finds there. -/
theorem alike_goesOn (next : DState → Half → DState × Half) {u u' : State} (h : Alike u u') :
    Alike { u with dstate := (next u.dstate u.didx).1, didx := (next u.dstate u.didx).2 }
      { u' with dstate := (next u'.dstate u'.didx).1, didx := (next u'.dstate u'.didx).2 } := by
  obtain ⟨m, rfl, hm⟩ := h
  exact ⟨m, rfl, hm⟩

section
variable {s s' : State} (h : Alike s s')
include h

theorem alike_boot (hd : s.dstate = .boot) : OutcomesAlike (exec .boot s) (exec .boot s') := by
  obtain ⟨m, rfl, hm⟩ := h
  rw [exec_boot hd, exec_boot (s := s.withBuffer m) hd]
  exact alike_next ⟨m, rfl, hm⟩

theorem alike_atrTx (hd : s.dstate = .atrTx) : OutcomesAlike (exec .atrTx s) (exec .atrTx s') := by
  have hsend := alike_afterSend h (s.byteCode (tableByte s.cfg.atr s.didx.toNat)) fun _ _ => alike_goesOn
    fun d x => (if x + 1 = 16 then .atrDrain else d, x + 1)
  obtain ⟨m, rfl, hm⟩ := h
  rw [exec_atrTx hd, exec_atrTx (s := s.withBuffer m) hd]
  exact hsend

theorem alike_atrDrain (hd : s.dstate = .atrDrain) :
    OutcomesAlike (exec .atrDrain s) (exec .atrDrain s') := by
  have hblocked := alike_blocked h
  obtain ⟨m, rfl, hm⟩ := h
  rw [exec_atrDrain hd, exec_atrDrain (s := s.withBuffer m) hd]
  exact alike_guarded Iff.rfl hblocked ⟨m, rfl, hm⟩

theorem alike_modeSwitch (hd : s.dstate = .modeSwitch) :
    OutcomesAlike (exec .modeSwitch s) (exec .modeSwitch s') := by
  obtain ⟨m, rfl, hm⟩ := h
  rw [exec_modeSwitch hd, exec_modeSwitch (s := s.withBuffer m) hd]
  exact alike_next ⟨m, rfl, hm⟩

theorem alike_idle (hd : s.dstate = .idle) : OutcomesAlike (exec .idle s) (exec .idle s') := by
  have hread := alike_afterRead h (go := fun v t => if lowByte v = cla then
      { t with cmdbuf := Memory.store t.cmdbuf 0 (lowByte v), didx := 1, dstate := .header } else t)
    fun v u u' hu => by
      obtain ⟨m, rfl, hm⟩ := hu
      split
      · exact ⟨_, rfl, sameHeader_store hm 0 (lowByte v)⟩
      · exact ⟨m, rfl, hm⟩
  obtain ⟨m, rfl, hm⟩ := h
  rw [exec_idle hd, exec_idle (s := s.withBuffer m) hd]
  exact hread

theorem alike_header (hd : s.dstate = .header) : OutcomesAlike (exec .header s) (exec .header s') := by
  have hread := alike_afterRead h (go := fun v t => { t with
      cmdbuf := Memory.store t.cmdbuf t.didx.toNat (lowByte v), didx := t.didx + 1
      dstate := if t.didx + 1 = 5 then .dispatch else t.dstate })
    fun v u u' hu => by
      obtain ⟨m, rfl, hm⟩ := hu
      exact ⟨_, rfl, sameHeader_store hm u.didx.toNat (lowByte v)⟩
  obtain ⟨m, rfl, hm⟩ := h
  rw [exec_header hd, exec_header (s := s.withBuffer m) hd]
  exact hread

theorem alike_cwRx (hd : s.dstate = .cwRx) : OutcomesAlike (exec .cwRx s) (exec .cwRx s') := by
  have hread := alike_afterRead h (go := fun v t =>
      let stored := { t with cmdbuf := Memory.store t.cmdbuf (5 + t.didx.toNat) (lowByte v) }
      if (t.didx + 1).toNat = cwPayloadLen then { stored with didx := 0, dstate := .trailerTx }
      else { stored with didx := t.didx + 1 })
    fun v u u' hu => by
      obtain ⟨m, rfl, hm⟩ := hu
      have hstored := sameHeader_store hm (5 + u.didx.toNat) (lowByte v)
      by_cases hlast : (u.didx + 1).toNat = cwPayloadLen
      · exact ⟨_, by dsimp only; rw [if_pos hlast]; exact if_pos hlast, by dsimp only; rwa [if_pos hlast]⟩
      · exact ⟨_, by dsimp only; rw [if_neg hlast]; exact if_neg hlast, by dsimp only; rwa [if_neg hlast]⟩
  obtain ⟨m, rfl, hm⟩ := h
  rw [exec_cwRx hd, exec_cwRx (s := s.withBuffer m) hd]
  exact hread

/-- The selection reads the instruction byte only. -/
theorem alike_dispatch (hd : s.dstate = .dispatch) :
    OutcomesAlike (exec .dispatch s) (exec .dispatch s') := by
  obtain ⟨m, rfl, hm⟩ := h
  rw [exec_dispatch hd, exec_dispatch (s := s.withBuffer m) hd]
  rw [show (s.withBuffer m).cmdbuf = m from rfl, hm.instructionByte]
  exact alike_next ⟨m, rfl, hm⟩

theorem alike_bodyTx (hd : s.dstate = .bodyTx) : OutcomesAlike (exec .bodyTx s) (exec .bodyTx s') := by
  have hsend := alike_afterSend h
    (s.byteCode (tableByte (resp s.cfg (Memory.read s.cmdbuf 1)) s.didx.toNat))
    (go := fun t => if (t.didx + 1).toNat = (resp s.cfg (Memory.read s.cmdbuf 1)).length then
        { t with didx := 0, dstate := .trailerTx } else { t with didx := t.didx + 1 })
    fun u u' hu => by
      obtain ⟨m, rfl, hm⟩ := hu
      change Alike (if _ then _ else _) (if (u.didx + 1).toNat = _ then _ else _)
      split
      · exact ⟨m, rfl, hm⟩
      · exact ⟨m, rfl, hm⟩
  obtain ⟨m, rfl, hm⟩ := h
  rw [exec_bodyTx hd, exec_bodyTx (s := s.withBuffer m) hd,
    show (s.withBuffer m).cmdbuf = m from rfl, hm.instructionByte]
  exact hsend

theorem alike_cwEcho (hd : s.dstate = .cwEcho) : OutcomesAlike (exec .cwEcho s) (exec .cwEcho s') := by
  have hsend := alike_afterSend h (s.byteCode (Memory.read s.cmdbuf 1)) fun _ _ => alike_goesOn
    fun _ _ => (.cwRx, 0)
  obtain ⟨m, rfl, hm⟩ := h
  rw [exec_cwEcho hd, exec_cwEcho (s := s.withBuffer m) hd,
    show (s.withBuffer m).cmdbuf = m from rfl, hm.instructionByte]
  exact hsend

theorem alike_trailerTx (hd : s.dstate = .trailerTx) :
    OutcomesAlike (exec .trailerTx s) (exec .trailerTx s') := by
  have hsend := alike_afterSend h (s.byteCode (tableByte trailer s.didx.toNat)) fun _ _ => alike_goesOn
    fun d x => (if x + 1 = 2 then .clear else d, x + 1)
  obtain ⟨m, rfl, hm⟩ := h
  rw [exec_trailerTx hd, exec_trailerTx (s := s.withBuffer m) hd]
  exact hsend

theorem alike_clear (hd : s.dstate = .clear) : OutcomesAlike (exec .clear s) (exec .clear s') := by
  obtain ⟨m, rfl, hm⟩ := h
  rw [exec_clear hd, exec_clear (s := s.withBuffer m) hd]
  exact alike_next ⟨[], rfl, sameHeader_refl Memory.wf_nil⟩

theorem alike_clkTick (l : Level) : OutcomesAlike (exec (.clkTick l) s) (exec (.clkTick l) s') := by
  obtain ⟨m, rfl, hm⟩ := h
  exact alike_next ⟨m, s.start.clockCycle_withBuffer m l, by rwa [clockCycle_cmdbuf]⟩

theorem alike_reset : OutcomesAlike (exec .reset s) (exec .reset s') := by
  obtain ⟨m, rfl, hm⟩ := h
  exact alike_next ⟨[], rfl, sameHeader_refl Memory.wf_nil⟩

theorem alike_delay {n : BitVec 32} (hwait : s.delayPhase = .wait n) :
    OutcomesAlike (exec (.delay n) s) (exec (.delay n) s') := by
  have hblocked := alike_blocked h
  obtain ⟨m, rfl, hm⟩ := h
  rw [exec_delay_wait hwait, exec_delay_wait (s := s.withBuffer m) hwait]
  exact alike_guarded Iff.rfl ⟨m, rfl, hm⟩ hblocked

end

/-! ### An agent's step -/

/-- What an agent's turn does. -/
def State.agentStep (a : Agent) (s : State) : StepOutcome :=
  match s.agentInstr a with
  | some i => exec i s
  | none => .fault .stuck

theorem agentStep_of_instr {s : State} {a : Agent} {i : Instr} (h : s.agentInstr a = some i) :
    s.agentStep a = exec i s := by
  rw [agentStep, h]

theorem agentStep_of_none {s : State} {a : Agent} (h : s.agentInstr a = none) :
    s.agentStep a = .fault .stuck := by
  rw [agentStep, h]

theorem step_agent {s : State} {a : Agent} {ts : List Turn} (hok : s.cfg.ok = true)
    (hagenda : s.agenda = .agent a :: ts) : step s = agentStep a { s with agenda := ts } := by
  cases hi : agentInstr { s with agenda := ts } a with
  | some i =>
    rw [agentStep_of_instr hi, step_of_fetch hok]
    rw [fetch, takeTurn_cons hagenda, fetchTurn_agent hi]
  | none => rw [agentStep_of_none hi, step, if_pos hok, fetch, takeTurn_cons hagenda, fetchTurn_agent_stuck hi]

/-- The dispatcher's program runs alike: at DISPATCH both states run DISPATCH's step, whatever their headers'
commands. -/
theorem alike_program {s s' : State} (h : Alike s s') (hphase : s.delayPhase = .start) :
    OutcomesAlike (s.agentStep .dispatcher) (s'.agentStep .dispatcher) := by
  obtain ⟨hphase', hdstate⟩ : s'.delayPhase = .start ∧ s'.dstate = s.dstate := by
    obtain ⟨m, rfl, -⟩ := h
    exact ⟨hphase, rfl⟩
  have hi := agentInstr_dispatcher hphase
  have hi' := agentInstr_dispatcher hphase'
  rw [programInstr] at hi hi'
  rw [hdstate] at hi'
  cases hd : s.dstate <;> rw [hd] at hi hi'
  case reserved k =>
    rw [agentStep_of_none hi, agentStep_of_none hi']
    exact alike_stuck
  all_goals rw [agentStep_of_instr hi, agentStep_of_instr hi']
  case boot => exact alike_boot h hd
  case atrTx => exact alike_atrTx h hd
  case atrDrain => exact alike_atrDrain h hd
  case modeSwitch => exact alike_modeSwitch h hd
  case idle => exact alike_idle h hd
  case header => exact alike_header h hd
  case dispatch =>
    rw [exec_commandInstr hd, exec_commandInstr (hdstate.trans hd)]
    exact alike_dispatch h hd
  case bodyTx => exact alike_bodyTx h hd
  case cwEcho => exact alike_cwEcho h hd
  case cwRx => exact alike_cwRx h hd
  case trailerTx => exact alike_trailerTx h hd
  case clear => exact alike_clear h hd

theorem alike_agentStep {s s' : State} (h : Alike s s') (a : Agent) :
    OutcomesAlike (s.agentStep a) (s'.agentStep a) := by
  cases a with
  | clock l => exact alike_clkTick h l
  | reset => exact alike_reset h
  | dispatcher =>
    cases hphase : s.delayPhase with
    | start => exact alike_program h hphase
    | wait n =>
      have hphase' : s'.delayPhase = .wait n := by
        obtain ⟨m, rfl, -⟩ := h
        exact hphase
      rw [agentStep_of_instr (a := .dispatcher) (dispatcherInstr_wait hphase),
        agentStep_of_instr (a := .dispatcher) (dispatcherInstr_wait hphase')]
      exact alike_delay h hphase

/-- Settles O58: in a build that is not refused both steps are the agent's, and `alike_agentStep` compares
them. -/
theorem headerParametersNeverMatter : Obligations.HeaderParametersNeverMatter := by
  intro s m a ts hagenda hwf hwf' hcla hins
  by_cases hok : s.cfg.ok = true
  case neg =>
    have hrefused : step s = .refused .badConfiguration := step_of_badConfiguration hok
    exact .inr ⟨hrefused.trans (step_of_badConfiguration (s := s.withBuffer m) hok).symm, fun t ht => by
      cases hrefused.symm.trans ht⟩
  have hstep := step_agent hok hagenda
  have hstep' : step (s.withBuffer m) = agentStep a (withBuffer m { s with agenda := ts }) :=
    step_agent (s := s.withBuffer m) hok hagenda
  have halike := alike_agentStep (s := { s with agenda := ts }) ⟨m, rfl, hwf, hwf', hcla, hins⟩ a
  rw [← hstep, ← hstep'] at halike
  rcases halike with ⟨t, _, ht, ht', m', rfl, hm'⟩ | ⟨heq, hstop⟩
  · exact .inl ⟨t, m', ht, ht', hm'.wf, hm'.wf', hm'.classByte, hm'.instructionByte⟩
  · exact .inr ⟨heq, hstop⟩

end Sys2Proof.Machine
end

section
/-! PROOFS. READ's micro-steps, where operations wait, the sample words, and the labels (42_receive.md R181, 30_encoding.md, 60_exceptions.md R260). -/

namespace Sys2Proof.Machine

open State

/-! ### READ -/

theorem afterRead_of_waiting {s : State} (h : s.start.readStep = .waiting) (go : Half → State → State) :
    s.afterRead go = .next s.blocked := by
  rw [afterRead, h]

theorem afterRead_of_moved {s t : State} (h : s.start.readStep = .moved t) (go : Half → State → State) :
    s.afterRead go = .next t := by
  rw [afterRead, h]

/-- Cutting a word to `W` bits is masking it. -/
theorem maskData_eq_and (c : Config) (x : Half) : maskData c x = x &&& BitVec.ofNat 16 (2 ^ c.w - 1) := by
  refine BitVec.eq_of_getLsbD_eq fun k hk => ?_
  rw [maskData, BitVec.getLsbD_setWidth, BitVec.getLsbD_setWidth, BitVec.getLsbD_and, BitVec.getLsbD_ofNat,
    Nat.testBit_two_pow_sub_one, decide_eq_true hk, Bool.true_and, Bool.true_and, Bool.and_comm]

/-- Settles O30: each clause is the micro-step of its phase, by `readStep`'s lemmas. -/
theorem readMicroSteps : Obligations.ReadMicroSteps := by
  intro s
  simp only [exec_read]
  refine ⟨fun hphase harmed => ?armed, fun hphase hdeaf hbusy => ?busy, fun hphase hdeaf hdrained => ?turn,
    fun hphase hcounting => ?counting, fun hphase hover hdrained => ?listen, fun hphase hempty => ?empty,
    fun hcursor hphase hword => ?word⟩
  case armed => exact afterRead_of_moved (readStep_armed (s := s.start) hphase harmed) _
  case busy => exact afterRead_of_waiting (readStep_busy (s := s.start) hphase hdeaf hbusy) _
  case turn =>
    rw [afterRead_of_moved (readStep_turn (s := s.start) hphase hdeaf hdrained), start_mode]
    cases s.mode with
    | handshake => rfl
    | operating => rfl
  case counting =>
    exact afterRead_of_waiting (readStep_delaying (s := s.start) hphase fun h => hcounting h.1) _
  case listen => exact afterRead_of_moved (readStep_listen (s := s.start) hphase ⟨hover, hdrained⟩) _
  case empty => exact afterRead_of_waiting (readStep_empty (s := s.start) hphase hempty) _
  case word =>
    rw [afterRead_of_word hcursor hphase hword, maskData_eq_and]
    rfl

/-! ### Where operations wait -/

theorem tickEnabled_iff (s : State) : s.tickEnabled = true ↔ s.gie = true ∧ s.txArmed = true := by
  simp [tickEnabled]

theorem edgeEnabled_iff (s : State) :
    s.edgeEnabled = true ↔ s.gie = true ∧ s.rxArmed = true ∧ s.rxstate = .waitEdge := by
  simp [edgeEnabled, edgeArmed]

theorem sampleEnabled_iff (s : State) :
    s.sampleEnabled = true ↔ s.gie = true ∧ s.rxArmed = true ∧ s.rxstate = .sample := by
  simp [sampleEnabled, sampleArmed]

/-- A dispatcher step outside its DSTATE is not enabled. -/
theorem exec_dispatcherStep_elsewhere {s : State} {d : DState} {i : Instr}
    (h : (d, i) ∈ [(DState.boot, Instr.boot), (.atrTx, .atrTx), (.atrDrain, .atrDrain),
      (.modeSwitch, .modeSwitch), (.idle, .idle), (.header, .header), (.dispatch, .dispatch),
      (.bodyTx, .bodyTx), (.cwEcho, .cwEcho), (.cwRx, .cwRx), (.trailerTx, .trailerTx), (.clear, .clear)])
    (hd : s.dstate ≠ d) : exec i s = .next s.blocked := by
  simp only [List.mem_cons, List.not_mem_nil, or_false, Prod.mk.injEq] at h
  rcases h with ⟨rfl, rfl⟩ | ⟨rfl, rfl⟩ | ⟨rfl, rfl⟩ | ⟨rfl, rfl⟩ | ⟨rfl, rfl⟩ | ⟨rfl, rfl⟩ | ⟨rfl, rfl⟩ |
    ⟨rfl, rfl⟩ | ⟨rfl, rfl⟩ | ⟨rfl, rfl⟩ | ⟨rfl, rfl⟩ | ⟨rfl, rfl⟩ <;> exact if_neg hd

/-- Settles O51: each guard is the enabling condition the statement denies. -/
theorem guardedOperationsWait : Obligations.GuardedOperationsWait := by
  intro l s
  refine ⟨fun h => if_neg ?tick, fun h => if_neg (mt (edgeEnabled_iff s).mp h),
    fun h => if_neg (mt (sampleEnabled_iff s).mp h), fun h => if_neg h, fun h => if_pos h,
    fun hbusy hphase => ?read, fun d i hi hd => exec_dispatcherStep_elsewhere hi hd⟩
  case tick =>
    rw [tickEnabled_iff]
    rintro ⟨hgie, harmed⟩
    rcases h with hmasked | hdrained
    · simp [hmasked] at hgie
    · simp [hdrained] at harmed
  case read =>
    rw [exec_read]
    exact afterRead_of_waiting (readStep_delaying (s := s.start) hphase fun h => by simp [hbusy] at h) _

/-! ### Sample words and labels -/

/-- Settles O1: the decoder evaluates on the nine words. -/
theorem sampleWordsDecode : Obligations.SampleWordsDecode :=
  ⟨rfl, rfl, rfl, rfl, rfl, rfl, rfl, rfl, rfl⟩

/-- Settles O59: every meaning is written over `start` and `blocked`, which overwrite both labels. -/
theorem labelsNeverMatter : Obligations.LabelsNeverMatter := by
  intro i s r c
  cases i <;> rfl

end Sys2Proof.Machine
end
